-- ==== Sys2Proof/Word.lean ====
section
/-! DEFINITION. The words of the block: bytes, the values of scaled records, the command word, timestamps.
-/

namespace Sys2Proof

/-- A `u8` (R9). -/
abbrev Byte := BitVec 8

/-- A `u32`, the value type of the scaled records (R64). -/
abbrev Word32 := BitVec 32

/-- The command word `cmd[10:0]` (R60). -/
abbrev CmdWord := BitVec 11

/-- A start or end time of the machine behind the host's interface: a value that is copied and told apart from
others, and nothing more. `index` only names it (in the hardware form, the value of its lines); no operation is
defined on the type and none of `Nat` applies to it. The block itself takes the type of its timestamps as an argument
`τ` (R8), and this is the `τ` that the interface's closed machine is given (DESIGN CHOICE, safe; log 1). -/
structure Timestamp where
  index : Nat
  deriving DecidableEq, Repr, Inhabited

/-- What the model puts on the side band where nothing asks for a timestamp: every line low (log 9, 12). -/
def Timestamp.low : Timestamp := ⟨0⟩

end Sys2Proof
end

