-- ==== Sys2Proof/Config.lean ====
section
/-! DEFINITION. The open parameters of R8 and the free values of R69: constants without a body, so that no proof
can see a value of them.
-/

namespace Sys2Proof.Config

/-- `TSW`, the width of a timestamp in the hardware form (R8, OPEN; log 7). -/
opaque tsw : Nat

/-- How far `LW` exceeds its least value 4 (R8: OPEN, with `LW >= 4`; log 7). -/
opaque lwExtra : Nat

/-- `LW`, the width of the window-length monitor (R8, R30). -/
def lw : Nat := 4 + lwExtra

/-- `LATENCY`, the clock cycles one command takes in an RTL realization. No rule depends on it (R8, R180), so
nothing reads it (log 7). -/
opaque latency : Nat

/-- The `temp` wires in a step that does not drive them (R69: any value; log 4). -/
opaque undrivenByte : (step : Nat) → Byte

/-- The 32-bit value wires of slot `slot` in a step that does not drive them (R69; log 4). -/
opaque undrivenWord : (slot step : Nat) → Word32

/-- The timestamp wires number `wire` in a step that does not drive them (R69; log 4). -/
opaque undrivenTime : (wire step : Nat) → Timestamp

end Sys2Proof.Config
end

