-- ==== Sys2Proof/Syntax.lean ====
section
/-! DEFINITION. The commands of the block, one constructor for each row of the opcode table, and what the host
presents to encode one.
-/

namespace Sys2Proof

/-- One command (R61). The `data` bits that a command ignores (R62) are kept, so that no bit of the word is lost
between a word and its instruction. The side-band timestamps are operands of PUSH alone (R60). -/
inductive Instr where
  /-- `000`, NOP (R110): `data` ignored. -/
  | nop (data : Byte)
  /-- `001`, PUSH (R100). -/
  | push (value : Byte) (tsStart tsEnd : Timestamp)
  /-- `010`, reserved (R63, R152). -/
  | reserved010 (data : Byte)
  /-- `011`, reserved (R63, R152). -/
  | reserved011 (data : Byte)
  /-- `100`, CRC_CLR (R85): `data` ignored. -/
  | crcClr (data : Byte)
  /-- `101`, CRC_UPD (R86). -/
  | crcUpd (data : Byte)
  /-- `110`, reserved (R63, R152). -/
  | reserved110 (data : Byte)
  /-- `111`, reserved (R63, R152). -/
  | reserved111 (data : Byte)
  deriving DecidableEq, Repr

/-- What the command port carries in a step with a command: the word and the two side-band timestamps (R60), of the
type `τ` that the block is given (R8). -/
structure Command (τ : Type) where
  word    : CmdWord
  tsStart : τ
  tsEnd   : τ
  deriving DecidableEq, Repr

end Sys2Proof
end

