-- ==== Sys2Proof/WellFormed.lean ====
section
/-! DEFINITION. When an instruction can be put on the port. The types bound every field but the timestamps of
PUSH, which have `TSW` lines each (R60). The block itself never checks a timestamp (R120), so no step consults
this predicate.
-/

namespace Sys2Proof

/-- The timestamps of `i` are among the `2 ^ width` values that `width` lines tell apart. -/
def Instr.fitsWidth (width : Nat) : Instr → Bool
  | .push _ tsStart tsEnd => decide (tsStart.index < 2 ^ width) && decide (tsEnd.index < 2 ^ width)
  | .nop _ | .reserved010 _ | .reserved011 _ | .crcClr _ | .crcUpd _ | .reserved110 _ | .reserved111 _ => true

/-- `i` fits the command port of R60, whose timestamp inputs have `TSW` lines. -/
abbrev Instr.WellFormed (i : Instr) : Prop := i.fitsWidth Config.tsw = true

end Sys2Proof
end

