-- ==== Sys2Proof/Decode.lean ====
section
/-! DEFINITION. Command words to instructions (total), instructions to command words, the opcode table as data,
and the two-byte container in which a command word is written down outside the block.
-/

namespace Sys2Proof

/-- `op = cmd[10:8]` (R60). -/
def opField (w : CmdWord) : BitVec 3 := w.extractLsb' 8 3

/-- `data = cmd[7:0]` (R60). -/
def dataField (w : CmdWord) : Byte := w.extractLsb' 0 8

/-- The opcode map of R61, on `cmd[10]`, `cmd[9]`, `cmd[8]`, with the operands of R62. Every word has a row. -/
def decodeCommand (c : Command Timestamp) : Instr :=
  match c.word.getLsbD 10, c.word.getLsbD 9, c.word.getLsbD 8 with
  | false, false, false => .nop (dataField c.word)
  | false, false, true  => .push (dataField c.word) c.tsStart c.tsEnd
  | false, true,  false => .reserved010 (dataField c.word)
  | false, true,  true  => .reserved011 (dataField c.word)
  | true,  false, false => .crcClr (dataField c.word)
  | true,  false, true  => .crcUpd (dataField c.word)
  | true,  true,  false => .reserved110 (dataField c.word)
  | true,  true,  true  => .reserved111 (dataField c.word)

/-- Why bytes are no command. -/
inductive DecodeError where
  /-- fewer than the two bytes that hold an 11-bit word -/
  | truncated
  /-- a bit above `cmd[10]` is set: the port has no such line (R60) -/
  | bitsAboveTen
  deriving DecidableEq, Repr

/-- A command word from the two-byte container: the byte with `cmd[7:0]` first, the five bits above `cmd[10]`
zero (DESIGN CHOICE, safe; log 8). -/
def decodeBytes (bs : List Byte) (tsStart tsEnd : Timestamp) : Except DecodeError (Instr × List Byte) :=
  match bs with
  | lo :: hi :: rest =>
    if hi.toNat < 8 then
      .ok (decodeCommand ⟨BitVec.ofNat 11 (hi.toNat * 256 + lo.toNat), tsStart, tsEnd⟩, rest)
    else .error .bitsAboveTen
  | _ => .error .truncated

/-- The two bytes that hold the opcode-table word `w` of `nbits` bits: the bits above `nbits` are 0. -/
def tableBytes (nbits w : Nat) : List Byte :=
  [BitVec.ofNat 8 (w % 2 ^ nbits), BitVec.ofNat 8 (w % 2 ^ nbits / 256)]

/-- What the decoder reads from the opcode-table word `w`, with both side-band timestamps low (log 9). -/
def decodeTableWord (nbits w : Nat) : Option Instr :=
  if w % 2 ^ nbits < 2 ^ 16 then
    match decodeBytes (tableBytes nbits w) Timestamp.low Timestamp.low with
    | .ok (i, _) => some i
    | .error _ => none
  else none

/-- The command that presents the opcode-table word `w`, with both side-band timestamps low (log 9). -/
def tableCommand (nbits w : Nat) : Command Timestamp :=
  ⟨BitVec.ofNat 11 (w % 2 ^ nbits), Timestamp.low, Timestamp.low⟩

/-- The operation selector of each instruction (R61). -/
def Instr.op : Instr → BitVec 3
  | .nop _         => 0b000#3
  | .push _ _ _    => 0b001#3
  | .reserved010 _ => 0b010#3
  | .reserved011 _ => 0b011#3
  | .crcClr _      => 0b100#3
  | .crcUpd _      => 0b101#3
  | .reserved110 _ => 0b110#3
  | .reserved111 _ => 0b111#3

/-- The `data` bits of each instruction (R62). -/
def Instr.data : Instr → Byte
  | .nop d | .push d _ _ | .reserved010 d | .reserved011 d | .crcClr d | .crcUpd d | .reserved110 d
  | .reserved111 d => d

/-- `cmd = {op, data}` (R60). -/
def encodeWord (i : Instr) : CmdWord := i.op ++ i.data

/-- The port values that present `i`. The side band is ignored but for PUSH (R62); the model puts
`Timestamp.low` on it there (DESIGN CHOICE, log 12). -/
def encode (i : Instr) : Command Timestamp :=
  match i with
  | .push _ tsStart tsEnd => ⟨encodeWord i, tsStart, tsEnd⟩
  | .nop _ | .reserved010 _ | .reserved011 _ | .crcClr _ | .crcUpd _ | .reserved110 _ | .reserved111 _ =>
    ⟨encodeWord i, Timestamp.low, Timestamp.low⟩

/-- The two-byte container of `i`'s word (log 8). -/
def encodeBytes (i : Instr) : List Byte := [i.data, i.op.setWidth 8]

/-- One row of the opcode table: the words `w` with `w &&& mask = pattern`. -/
structure OpRow where
  mnemonic : String
  pattern  : CmdWord
  mask     : CmdWord
  deriving DecidableEq, Repr

/-- spec/opcode_table.json: match and mask of its eight rows. -/
def opcodeTable : List OpRow :=
  [⟨"NOP", 0x000#11, 0x700#11⟩, ⟨"PUSH", 0x100#11, 0x700#11⟩,
   ⟨"RESERVED_010", 0x200#11, 0x700#11⟩, ⟨"RESERVED_011", 0x300#11, 0x700#11⟩,
   ⟨"CRC_CLR", 0x400#11, 0x700#11⟩, ⟨"CRC_UPD", 0x500#11, 0x700#11⟩,
   ⟨"RESERVED_110", 0x600#11, 0x700#11⟩, ⟨"RESERVED_111", 0x700#11, 0x700#11⟩]

/-- `w` is a word of the row. -/
def OpRow.holds (r : OpRow) (w : CmdWord) : Bool := w &&& r.mask == r.pattern

/-- The row of the opcode table that each instruction stands for. -/
def Instr.mnemonic : Instr → String
  | .nop _         => "NOP"
  | .push _ _ _    => "PUSH"
  | .reserved010 _ => "RESERVED_010"
  | .reserved011 _ => "RESERVED_011"
  | .crcClr _      => "CRC_CLR"
  | .crcUpd _      => "CRC_UPD"
  | .reserved110 _ => "RESERVED_110"
  | .reserved111 _ => "RESERVED_111"

/-- The instruction is one of the four reserved encodings (R63). -/
def Instr.isReserved : Instr → Bool
  | .reserved010 _ | .reserved011 _ | .reserved110 _ | .reserved111 _ => true
  | .nop _ | .push _ _ _ | .crcClr _ | .crcUpd _ => false

end Sys2Proof
end

