-- ==== Sys2Proof/Machine/Crc.lean ====
section
/-! DEFINITION. The CRC Engine: CRC-8, polynomial 0x07, initial value 0x00, MSB-first, no reflection, no final XOR
(R2, R43, R80, R81).
-/

namespace Sys2Proof.Machine

/-- CRC_POLY (R7). -/
def crcPoly : Byte := 0x07#8

/-- CRC_INIT (R7). -/
def crcInit : Byte := 0x00#8

/-- One of the 8 iterations of R80: bit 7 decides, the register shifts toward bit 7 and keeps 8 bits. -/
def crcShift (r : Byte) : Byte :=
  if r.getLsbD 7 then (r <<< 1) ^^^ crcPoly else r <<< 1

/-- `n` iterations, one after the other. -/
def crcShifts : Nat → Byte → Byte
  | 0, r => r
  | n + 1, r => crcShifts n (crcShift r)

/-- `crc8_step(c, b)` (R80). -/
def crc8Step (c b : Byte) : Byte := crcShifts 8 (c ^^^ b)

/-- `crc8(bytes)` (R81). -/
def crc8 (bytes : List Byte) : Byte := bytes.foldl crc8Step crcInit

end Sys2Proof.Machine
end

