-- ==== Sys2Proof/Machine/State.lean ====
section
/-! DEFINITION. The block's data: timestamped bytes, frames, records, the port, the result bundle, the block, the
state and its value after reset. The type `τ` of the timestamps is an argument of each (R8, "an abstract type"); the
state of the closed machine behind the host's interface has `Timestamp` there (log 1).
-/

namespace Sys2Proof.Machine

/-- One input unit (R13, R21). -/
structure TimestampedByte (τ : Type) where
  value     : Byte
  startTime : τ
  endTime   : τ
  deriving DecidableEq, Repr

/-- The payload of a frame: the bytes at offsets 0 to 8 (R130). -/
structure Payload (τ : Type) where
  p0 : TimestampedByte τ
  p1 : TimestampedByte τ
  p2 : TimestampedByte τ
  p3 : TimestampedByte τ
  p4 : TimestampedByte τ
  p5 : TimestampedByte τ
  p6 : TimestampedByte τ
  p7 : TimestampedByte τ
  p8 : TimestampedByte τ
  deriving DecidableEq, Repr

/-- Ten consecutive timestamped bytes: the candidate and the byte at offset 9 (R100 step 3, R130). -/
structure Frame (τ : Type) where
  payload : Payload τ
  crcByte : TimestampedByte τ
  deriving DecidableEq, Repr

/-- `enum{Good}` (R65): one member. -/
inductive Verdict where
  | good
  deriving DecidableEq, Repr

/-- The seven kinds of record, in the order of their tags, each with its time span (R64). -/
inductive DecodedRecord (τ : Type) where
  | temperature (value : Byte) (start stop : τ)
  | voltage (value : Word32) (start stop : τ)
  | current (value : Word32) (start stop : τ)
  | consumption (value : Word32) (start stop : τ)
  | rpm (value : Word32) (start stop : τ)
  | checksumResult (verdict : Verdict) (start stop : τ)
  | badSpan (start stop : τ)
  deriving DecidableEq, Repr

/-- The wires of the result bundle, field by field as R67 lists them. -/
structure ResultBundle (τ : Type) where
  resValid  : Bool
  badValid  : Bool
  badStart  : τ
  badEnd    : τ
  temp      : Byte
  tempStart : τ
  tempEnd   : τ
  volt      : Word32
  voltStart : τ
  voltEnd   : τ
  curr      : Word32
  currStart : τ
  currEnd   : τ
  cons      : Word32
  consStart : τ
  consEnd   : τ
  rpm       : Word32
  rpmStart  : τ
  rpmEnd    : τ
  chkStart  : τ
  chkEnd    : τ
  deriving DecidableEq, Repr

/-- What the host presents in one step: the reset line (R71) and at most one command (R60). -/
structure PortInput (τ : Type) where
  rst     : Bool
  command : Option (Command τ)
  deriving DecidableEq, Repr

/-- The block's complete state: "Nothing else is state" (R20), for timestamps of any type `τ` (R8). -/
structure Block (τ : Type) where
  /-- the PendingWindow `W`, oldest byte first (R21) -/
  window  : List (TimestampedByte τ)
  /-- the standalone CRC accumulator (R29) -/
  acc     : Byte
  /-- the model-only refusal mark (R152) -/
  refused : Bool
  deriving DecidableEq, Repr

/-- A fresh block (R35). -/
def Block.fresh {τ : Type} : Block τ := { window := [], acc := 0x00#8, refused := false }

/-- The state. `window`, `acc` and `refused` are the block (R20), flat. The other four fields are the
model's own: `inputs` is what the host presents at the coming steps (log 2), `out` and `log` show the records of
the last step and of all steps (log 3), `freeCount` selects the free values of R69 (log 4). -/
structure State where
  /-- the PendingWindow `W`, oldest byte first (R21) -/
  window    : List (TimestampedByte Timestamp)
  /-- the standalone CRC accumulator (R29) -/
  acc       : Byte
  /-- the model-only refusal mark (R152) -/
  refused   : Bool
  /-- the port values of the coming steps, first step first -/
  inputs    : List (PortInput Timestamp)
  /-- the record sequence of the step just performed (R68) -/
  out       : List (DecodedRecord Timestamp)
  /-- the concatenation of the record sequences of all steps (R68, R163) -/
  log       : List (DecodedRecord Timestamp)
  /-- how many steps have been performed; only the free values of R69 are applied to it -/
  freeCount : Nat
  deriving DecidableEq, Repr

/-- The block raises no exception, has no trap and no error output (R150), so there is no fault. -/
inductive Fault
  deriving DecidableEq, Repr

/-- Why a step could be refused by the interface. A reserved command is not one of these: it sets the mark
`refused` in the state (R152). -/
inductive Refusal where
  /-- raised by an arm of `exec` that has no meaning; no arm is left without one. Safe. -/
  | notModelled (mnemonic : String)
  deriving DecidableEq, Repr

/-- A fresh block at the start of a run: R35 for `window`, `acc` and `refused`; the model's own fields are empty
or 0 (DESIGN CHOICE, log 2, 3, 4). -/
def State.reset : State :=
  { window := [], acc := 0x00#8, refused := false, inputs := [], out := [], log := [], freeCount := 0 }

end Sys2Proof.Machine
end

