-- ==== Sys2Proof/Machine/Operands.lean ====
section
/-! DEFINITION. How operands are assembled (R62), the values of a sequence of timestamped bytes, the notation
`S[i..j]` (R10), and how the last ten elements of a window form a frame (R100 step 3, R130).
-/

namespace Sys2Proof.Machine

section
variable {τ : Type}

/-- The operand of PUSH: `{ value = cmd[7:0], start_time = ts_start, end_time = ts_end }` (R62). The timestamps
are taken unchecked (R120). -/
def timestampedByte (value : Byte) (tsStart tsEnd : τ) : TimestampedByte τ :=
  { value := value, startTime := tsStart, endTime := tsEnd }

/-- `vals(S)` (R10). -/
def vals (S : List (TimestampedByte τ)) : List Byte := S.map TimestampedByte.value

/-- `S[i..j]`, elements `i` to `j` inclusive (R10). -/
def slice {α : Type} (S : List α) (i j : Nat) : List α := (S.take (j + 1)).drop i

/-- The nine elements, offset 0 first. -/
def Payload.toList (p : Payload τ) : List (TimestampedByte τ) :=
  [p.p0, p.p1, p.p2, p.p3, p.p4, p.p5, p.p6, p.p7, p.p8]

/-- The ten elements, offset 0 first. -/
def Frame.toList (f : Frame τ) : List (TimestampedByte τ) := f.payload.toList ++ [f.crcByte]

/-- A window of 10 or more elements as its bad lead-in (the leading `len - 10` elements, R105) and its last ten
elements, candidate and crcByte (R103); `none` for a shorter one. -/
def splitTail (W : List (TimestampedByte τ)) : Option (List (TimestampedByte τ) × Frame τ) :=
  match W.reverse with
  | c :: p8 :: p7 :: p6 :: p5 :: p4 :: p3 :: p2 :: p1 :: p0 :: bad =>
    some (bad.reverse, { payload := { p0, p1, p2, p3, p4, p5, p6, p7, p8 }, crcByte := c })
  | _ => none

end

end Sys2Proof.Machine
end

