-- ==== Sys2Proof/Machine/FrameDecoder.lean ====
section
/-! DEFINITION. The combinational function `decode` of a confirmed frame's payload (R131 to R137).
-/

namespace Sys2Proof.Machine

section
variable {τ : Type}

/-- SCALE (R7). -/
def scale : Word32 := 10#32

/-- `zext_32({hi, lo}) * 10`: a big-endian 16-bit field (R42), scaled (R133 to R136). -/
def scaledField (hi lo : TimestampedByte τ) : Word32 := (hi.value ++ lo.value).setWidth 32 * scale

/-- Temperature: the raw byte (R132). -/
def decodeTemperature (p : Payload τ) : DecodedRecord τ := .temperature p.p0.value p.p0.startTime p.p0.endTime

/-- Voltage (R133). -/
def decodeVoltage (p : Payload τ) : DecodedRecord τ := .voltage (scaledField p.p1 p.p2) p.p1.startTime p.p2.endTime

/-- Current (R134). -/
def decodeCurrent (p : Payload τ) : DecodedRecord τ := .current (scaledField p.p3 p.p4) p.p3.startTime p.p4.endTime

/-- Consumption (R135). -/
def decodeConsumption (p : Payload τ) : DecodedRecord τ :=
  .consumption (scaledField p.p5 p.p6) p.p5.startTime p.p6.endTime

/-- Rpm (R136). -/
def decodeRpm (p : Payload τ) : DecodedRecord τ := .rpm (scaledField p.p7 p.p8) p.p7.startTime p.p8.endTime

/-- `decode(p)` (R131). -/
def decodePayload (p : Payload τ) : List (DecodedRecord τ) :=
  [decodeTemperature p, decodeVoltage p, decodeCurrent p, decodeConsumption p, decodeRpm p]

/-- ChecksumResult(Good) with the span of the CRC byte (R137). -/
def checksumGood (c : TimestampedByte τ) : DecodedRecord τ := .checksumResult .good c.startTime c.endTime

/-- The optional BadSpan of a bad lead-in: none for an empty one, else one record from the start of its first
element to the end of its last (R105). -/
def badSpanOf : List (TimestampedByte τ) → List (DecodedRecord τ)
  | [] => []
  | first :: rest => [.badSpan first.startTime (rest.getLastD first).endTime]

/-- The records of a confirmed frame `f` after the bad lead-in `bad`, in the order of R101. -/
def frameRecords (bad : List (TimestampedByte τ)) (f : Frame τ) : List (DecodedRecord τ) :=
  badSpanOf bad ++ decodePayload f.payload ++ [checksumGood f.crcByte]

end

end Sys2Proof.Machine
end

