-- ==== Sys2Proof/Machine/Ops.lean ====
section
/-! DEFINITION. The source's `process`, the operations of the block (each answers the block after it and the records it
returns), and the one operation that performs a block operation on the state as a step. The block takes no exception
and returns from none (R150, R155, R156), so no operation for either exists.
-/

namespace Sys2Proof.Machine

section
variable {τ : Type}

/-- The CRC test of R100 step 4. It reads the candidate and crcByte alone (R88, R103). -/
def Frame.passes (f : Frame τ) : Bool := crc8 (vals f.payload.toList) == f.crcByte.value

/-- `process(byte)` of R100 on a window: the new window and the step's records. -/
def process (W : List (TimestampedByte τ)) (b : TimestampedByte τ) :
    List (TimestampedByte τ) × List (DecodedRecord τ) :=
  match splitTail (W ++ [b]) with
  | none => (W ++ [b], [])
  | some (bad, f) => if f.passes then ([], frameRecords bad f) else (W ++ [b], [])

/-- No state change and no records (R110). -/
def Block.idle (B : Block τ) : Block τ × List (DecodedRecord τ) := (B, [])

/-- `process` on the block's own window (R100). -/
def Block.push (b : TimestampedByte τ) (B : Block τ) : Block τ × List (DecodedRecord τ) :=
  let r := process B.window b
  ({ B with window := r.1 }, r.2)

/-- `acc <- 0x00` (R85). -/
def Block.crcClr (B : Block τ) : Block τ × List (DecodedRecord τ) := ({ B with acc := crcInit }, [])

/-- `acc <- crc8_step(acc, data)` (R86). -/
def Block.crcUpd (data : Byte) (B : Block τ) : Block τ × List (DecodedRecord τ) :=
  ({ B with acc := crc8Step B.acc data }, [])

/-- `refused <- true`, `W` and `acc` unchanged (R152). -/
def Block.refuse (B : Block τ) : Block τ × List (DecodedRecord τ) := ({ B with refused := true }, [])

/-- The reset event: `W = []`, `acc = 0x00`, the mark unchanged, no record (R170, R172). -/
def Block.reset (B : Block τ) : Block τ × List (DecodedRecord τ) := ({ B with window := [], acc := crcInit }, [])
end

/-- The block in the state. -/
def State.block (s : State) : Block Timestamp := { window := s.window, acc := s.acc, refused := s.refused }

/-- Perform a block operation as one step: the block becomes what the operation answers, and its record sequence is
this step's output and joins the run's observation (R68). The previous step's output is gone (R176). -/
def State.perform (f : Block Timestamp → Block Timestamp × List (DecodedRecord Timestamp)) (s : State) : State :=
  { s with
    window := (f s.block).1.window, acc := (f s.block).1.acc, refused := (f s.block).1.refused,
    out := (f s.block).2, log := s.log ++ (f s.block).2, freeCount := s.freeCount + 1 }

/-- The reset event as a step (R170). -/
def State.applyReset (s : State) : State := s.perform Block.reset

end Sys2Proof.Machine
end

