-- ==== Sys2Proof/Machine/CrcPort.lean ====
section
/-! DEFINITION. The meanings of the standalone CRC port's commands, CRC_CLR and CRC_UPD (40_crc.md).
-/

namespace Sys2Proof.Machine

/-- CRC_CLR (R85), whatever its `data` (R62). -/
def execCrcClr (_data : Byte) (s : State) : Host.Outcome State Fault Refusal :=
  .next (s.perform Block.crcClr)

/-- CRC_UPD (R86). -/
def execCrcUpd (data : Byte) (s : State) : Host.Outcome State Fault Refusal :=
  .next (s.perform (Block.crcUpd data))

end Sys2Proof.Machine
end

