-- ==== Sys2Proof/Machine/Reserved.lean ====
section
/-! DEFINITION. The meanings of the four reserved encodings: each sets the sticky mark `refused` and changes neither
`W` nor `acc` (R63, R152; DEDUCED to be a next state and no stop of the machine, log 5).
-/

namespace Sys2Proof.Machine

/-- `op = 010` (R152), whatever its `data` (R63). -/
def execReserved010 (_data : Byte) (s : State) : Host.Outcome State Fault Refusal := .next (s.perform Block.refuse)

/-- `op = 011` (R152), whatever its `data` (R63). -/
def execReserved011 (_data : Byte) (s : State) : Host.Outcome State Fault Refusal := .next (s.perform Block.refuse)

/-- `op = 110` (R152), whatever its `data` (R63). -/
def execReserved110 (_data : Byte) (s : State) : Host.Outcome State Fault Refusal := .next (s.perform Block.refuse)

/-- `op = 111` (R152), whatever its `data` (R63). -/
def execReserved111 (_data : Byte) (s : State) : Host.Outcome State Fault Refusal := .next (s.perform Block.refuse)

end Sys2Proof.Machine
end

