-- ==== Sys2Proof/Machine/Sync.lean ====
section
/-! DEFINITION. The meanings of the synchronizer's commands, PUSH and NOP (41_sync.md).
-/

namespace Sys2Proof.Machine

/-- PUSH (R100). -/
def execPush (value : Byte) (tsStart tsEnd : Timestamp) (s : State) : Host.Outcome State Fault Refusal :=
  .next (s.perform (Block.push (timestampedByte value tsStart tsEnd)))

/-- NOP (R110): no state change, no records, whatever its `data` (R62). -/
def execNop (_data : Byte) (s : State) : Host.Outcome State Fault Refusal :=
  .next (s.perform Block.idle)

end Sys2Proof.Machine
end

