-- ==== Sys2Proof/Machine/Dispatch.lean ====
section
/-! DEFINITION. One arm per command: its meaning.
-/

namespace Sys2Proof.Machine

/-- One command performed whole (R48). -/
def exec (i : Instr) (s : State) : Host.Outcome State Fault Refusal :=
  match i with
  | .nop data => Sys2Proof.Machine.execNop data s
  | .push value tsStart tsEnd => Sys2Proof.Machine.execPush value tsStart tsEnd s
  | .reserved010 data => Sys2Proof.Machine.execReserved010 data s
  | .reserved011 data => Sys2Proof.Machine.execReserved011 data s
  | .crcClr data => Sys2Proof.Machine.execCrcClr data s
  | .crcUpd data => Sys2Proof.Machine.execCrcUpd data s
  | .reserved110 data => Sys2Proof.Machine.execReserved110 data s
  | .reserved111 data => Sys2Proof.Machine.execReserved111 data s

end Sys2Proof.Machine
end

