-- ==== Sys2Proof/Machine/Port.lean ====
section
/-! DEFINITION. What one step does with what the host presents: the reset line before a command, a command decoded
and performed, a NOP where there is none.
-/

namespace Sys2Proof.Machine

/-- Nothing presented: no reset and no command. -/
def idleInput {τ : Type} : PortInput τ := { rst := false, command := none }

/-- What the host presents in the coming step; past the end of the list, nothing (log 2). -/
def State.presented (s : State) : PortInput Timestamp := s.inputs.headD idleInput

/-- The state with the coming step's port values taken off the list. -/
def State.taken (s : State) : State := { s with inputs := s.inputs.tail }

/-- The command of a step without reset: "A step with no command from the host is a NOP" (R60). -/
def PortInput.instr (p : PortInput Timestamp) : Instr :=
  match p.command with
  | some c => decodeCommand c
  | none => .nop 0#8

/-- One step on the port values `p`: "If `rst` and a command arrive in the same step, `rst` wins and the command is
discarded without effect" (R178, R170). -/
def stepPort (p : PortInput Timestamp) (s : State) : Host.Outcome State Fault Refusal :=
  if p.rst then .next s.applyReset else exec p.instr s

/-- The byte that a step pushes, if it is a PUSH: no reset, and the command is one. -/
def PortInput.pushed (p : PortInput Timestamp) : Option (TimestampedByte Timestamp) :=
  if p.rst then none
  else
    match p.instr with
    | .push value tsStart tsEnd => some (timestampedByte value tsStart tsEnd)
    | .nop _ | .reserved010 _ | .reserved011 _ | .crcClr _ | .crcUpd _ | .reserved110 _ | .reserved111 _ => none

/-- The byte that a step gives the standalone CRC port, if it is a CRC_UPD. -/
def PortInput.absorbed (p : PortInput Timestamp) : Option Byte :=
  if p.rst then none
  else
    match p.instr with
    | .crcUpd data => some data
    | .nop _ | .push _ _ _ | .reserved010 _ | .reserved011 _ | .crcClr _ | .reserved110 _ | .reserved111 _ => none

/-- The port values that present an opcode-table word as a command. -/
def tableInput (nbits w : Nat) : PortInput Timestamp := { rst := false, command := some (tableCommand nbits w) }

end Sys2Proof.Machine
end

