-- ==== Sys2Proof/Machine/Step.lean ====
section
/-! DEFINITION. One step of the block on its own list of port values, and where the host's check places a word.
-/

namespace Sys2Proof.Machine

/-- One step: take what the host presents and act on it (R6, R50). -/
def step (s : State) : Host.Outcome State Fault Refusal := stepPort s.presented s.taken

/-- The block fetches nothing (R26): the next instruction is what the port carries in the coming step, so the word
is put in front of the port values (log 9). -/
def State.withFetchWord (s : State) (nbits w : Nat) : State := { s with inputs := tableInput nbits w :: s.inputs }

end Sys2Proof.Machine
end

