-- ==== Sys2Proof/Machine/Assembler.lean ====
section
/-! DEFINITION. Programs for the block: the lines of R72, the pseudo-instructions of R73, what each puts on the port,
and the text form.
-/

namespace Sys2Proof.Machine

/-- One line that the block sees as one step (R72). -/
inductive AsmLine where
  | nop
  | push (v : Byte) (s e : Timestamp)
  | crcClr
  | crcUpd (v : Byte)
  | reset
  deriving DecidableEq, Repr

/-- A line or a pseudo-instruction (R73). `frame` has the nine payload bytes and the CRC byte's timestamps. -/
inductive AsmStatement where
  | line (l : AsmLine)
  | frame (p : Payload Timestamp) (s9 e9 : Timestamp)
  | crc8 (bytes : List Byte)
  deriving DecidableEq, Repr

/-- The command that a line encodes; RESET is no command (R71, R72). -/
def AsmLine.command : AsmLine → Option (Command Timestamp)
  | .nop        => some (encode (.nop 0#8))
  | .push v s e => some (encode (.push v s e))
  | .crcClr     => some (encode (.crcClr 0#8))
  | .crcUpd v   => some (encode (.crcUpd v))
  | .reset      => none

/-- What a line puts on the port for one step (R72). -/
def AsmLine.portInput (l : AsmLine) : PortInput Timestamp := { rst := l == .reset, command := l.command }

/-- `PUSH b` (R72). -/
def pushLine (b : TimestampedByte Timestamp) : AsmLine := .push b.value b.startTime b.endTime

/-- The steps that push the bytes `bs`, one after the other. -/
def pushInputs (bs : List (TimestampedByte Timestamp)) : List (PortInput Timestamp) :=
  bs.map fun b => (pushLine b).portInput

/-- The lines that replace a statement (R73). -/
def AsmStatement.expand : AsmStatement → List AsmLine
  | .line l        => [l]
  | .frame p s9 e9 => p.toList.map pushLine ++ [.push (Machine.crc8 (vals p.toList)) s9 e9]
  | .crc8 bytes    => .crcClr :: bytes.map .crcUpd

/-- The port values of a program, step by step. -/
def assemble (prog : List AsmStatement) : List (PortInput Timestamp) :=
  (prog.flatMap AsmStatement.expand).map AsmLine.portInput

/-! The text form of R72. What the spec leaves open (blanks, how operands are separated) is a DESIGN CHOICE (log 10):
blanks, commas and parentheses separate the fields of a line. -/

/-- The value of a digit in a base of at most 16. -/
def digitValue (base : Nat) (c : Char) : Option Nat :=
  let n := c.toNat
  let v := if 48 ≤ n ∧ n ≤ 57 then n - 48 else if 97 ≤ n ∧ n ≤ 102 then n - 87
    else if 65 ≤ n ∧ n ≤ 70 then n - 55 else base
  if v < base then some v else none

/-- The number that digits write, on top of `acc`. -/
def digitsValue (base acc : Nat) : List Char → Option Nat
  | [] => some acc
  | c :: cs => (digitValue base c).bind fun d => digitsValue base (acc * base + d) cs

/-- "A literal is decimal, or hexadecimal with a `0x` prefix" (R72). -/
def literalValue : List Char → Option Nat
  | [] => none
  | '0' :: 'x' :: c :: cs => digitsValue 16 0 (c :: cs)
  | cs => digitsValue 10 0 cs

/-- A character that separates fields (log 10). -/
def isSeparator (c : Char) : Bool := c == ' ' || c == '\t' || c == ',' || c == '(' || c == ')'

/-- The fields of a line up to its comment: "`;` starts a comment" (R72). `cur` is the field being read, last
character first. -/
def fieldsOf (cur : List Char) : List Char → List (List Char)
  | [] => if cur.isEmpty then [] else [cur.reverse]
  | c :: cs =>
    if c == ';' then (if cur.isEmpty then [] else [cur.reverse])
    else if isSeparator c then (if cur.isEmpty then fieldsOf [] cs else cur.reverse :: fieldsOf [] cs)
    else fieldsOf (c :: cur) cs

/-- "`v` is 0–255" (R72). -/
def byteOf (n : Nat) : Option Byte := if n < 256 then some (BitVec.ofNat 8 n) else none

/-- The timestamped bytes that triples of numbers write, and the numbers left over when fewer than three remain. A number
in the place of a timestamp names one (log 1). -/
def triplesOf : List Nat → Option (List (TimestampedByte Timestamp) × List Nat)
  | v :: s :: e :: rest =>
    (byteOf v).bind fun b => (triplesOf rest).map fun r => (timestampedByte b ⟨s⟩ ⟨e⟩ :: r.1, r.2)
  | rest => some ([], rest)

/-- A statement from its mnemonic and numbers (R72, R73). -/
def statementOf (mnemonic : List Char) (ns : List Nat) : Option AsmStatement :=
  if mnemonic = ['N', 'O', 'P'] then if ns = [] then some (.line .nop) else none
  else if mnemonic = ['C', 'R', 'C', '_', 'C', 'L', 'R'] then if ns = [] then some (.line .crcClr) else none
  else if mnemonic = ['R', 'E', 'S', 'E', 'T'] then if ns = [] then some (.line .reset) else none
  else if mnemonic = ['P', 'U', 'S', 'H'] then
    match ns with
    | [v, s, e] => (byteOf v).map fun b => .line (.push b ⟨s⟩ ⟨e⟩)
    | _ => none
  else if mnemonic = ['C', 'R', 'C', '_', 'U', 'P', 'D'] then
    match ns with
    | [v] => (byteOf v).map fun b => .line (.crcUpd b)
    | _ => none
  else if mnemonic = ['C', 'R', 'C', '8'] then (ns.mapM byteOf).map .crc8
  else if mnemonic = ['F', 'R', 'A', 'M', 'E'] then
    match triplesOf ns with
    | some ([p0, p1, p2, p3, p4, p5, p6, p7, p8], [s9, e9]) =>
      some (.frame ⟨p0, p1, p2, p3, p4, p5, p6, p7, p8⟩ ⟨s9⟩ ⟨e9⟩)
    | _ => none
  else none

/-- One line of text: no statement (blank or only a comment), or one; `none` where it is neither (R72). -/
def parseLine (text : List Char) : Option (List AsmStatement) :=
  match fieldsOf [] text with
  | [] => some []
  | mnemonic :: operands => (operands.mapM literalValue).bind fun ns => (statementOf mnemonic ns).map fun st => [st]

end Sys2Proof.Machine
end

