-- ==== Sys2Proof/Machine/Block.lean ====
section
/-! DEFINITION. The block with the type of its timestamps as an argument, as R8 asks ("The model takes these
implementation parameters as arguments"): one step on port values, and a run of steps. `step` is this block at the type
`Timestamp` (obligation BlockTakesAnyTimestampType), with the word decoded by the same decoder and each command
performed by the same operation. `τ` comes without any operation, so nothing here can compare or compute a timestamp.
-/

namespace Sys2Proof.Machine

section
variable {τ : Type}

/-- One command (R61). The word says which; the side band, of type `τ`, is an operand of PUSH alone (R60, R62), so the
decoder sees `Timestamp.low` in its place. -/
def Block.onCommand (c : Command τ) (B : Block τ) : Block τ × List (DecodedRecord τ) :=
  match decodeCommand ⟨c.word, Timestamp.low, Timestamp.low⟩ with
  | .nop _ => B.idle
  | .push value _ _ => B.push (timestampedByte value c.tsStart c.tsEnd)
  | .crcClr _ => B.crcClr
  | .crcUpd data => B.crcUpd data
  | .reserved010 _ => B.refuse
  | .reserved011 _ => B.refuse
  | .reserved110 _ => B.refuse
  | .reserved111 _ => B.refuse

/-- One step on the port values `p`: reset before a command (R178), and a NOP where there is neither (R60). -/
def Block.onPort (p : PortInput τ) (B : Block τ) : Block τ × List (DecodedRecord τ) :=
  if p.rst then B.reset
  else
    match p.command with
    | some c => B.onCommand c
    | none => B.idle

/-- The steps on the port values `ins`, one after the other: the block at their end and the records of all of them in
order (R68, R163). -/
def Block.run : List (PortInput τ) → Block τ → Block τ × List (DecodedRecord τ)
  | [], B => (B, [])
  | p :: ps, B => ((Block.run ps (B.onPort p).1).1, (B.onPort p).2 ++ (Block.run ps (B.onPort p).1).2)
end

end Sys2Proof.Machine
end

