-- ==== Sys2Proof/Machine/Bounded.lean ====
section
/-! DEFINITION. The bounded representation `(n, T, fs)` of the window, an RTL realization's storage (R31 to R33).
The state keeps the unbounded window (R24); this file says what stands for it and how PUSH acts on that.
-/

namespace Sys2Proof.Machine

/-- The triple of R32: a count, the last `n` elements, and the start time of the oldest element. -/
structure BoundedWindow (τ : Type) where
  n  : Nat
  T  : List (TimestampedByte τ)
  fs : τ
  deriving DecidableEq, Repr

section
variable {τ : Type}

/-- `(n, T, fs)` represents `W` (R32); `fs` is any value when `W` is empty. -/
def BoundedWindow.Represents (r : BoundedWindow τ) (W : List (TimestampedByte τ)) : Prop :=
  r.n = min W.length 10 ∧ r.T = W.drop (W.length - r.n) ∧
    ∀ first, W.head? = some first → r.fs = first.startTime

/-- PUSH on the triple (R33). The last branch is reached by no triple that represents a window. -/
def boundedProcess (r : BoundedWindow τ) (b : TimestampedByte τ) : BoundedWindow τ × List (DecodedRecord τ) :=
  let fs := if r.n = 0 then b.startTime else r.fs
  let T1 := r.T ++ [b]
  if r.n + 1 < 10 then ({ n := r.n + 1, T := T1, fs := fs }, [])
  else
    match splitTail T1 with
    | some (dropped, f) =>
      if f.passes then
        ({ n := 0, T := [], fs := fs },
          (if r.n = 10 then dropped.head?.toList.map (fun oldest => .badSpan fs oldest.endTime) else []) ++
            decodePayload f.payload ++ [checksumGood f.crcByte])
      else ({ n := 10, T := f.toList, fs := fs }, [])
    | none => ({ n := r.n, T := r.T, fs := fs }, [])

/-- All that the outputs depend on (R31): how many elements there are up to 10, the last ones up to 10, and the
oldest element's start time. -/
def windowView (W : List (TimestampedByte τ)) : Nat × List (TimestampedByte τ) × Option τ :=
  (min W.length 10, W.drop (W.length - 10), W.head?.map TimestampedByte.startTime)

end

end Sys2Proof.Machine
end

