-- ==== Sys2Proof/Machine/Links.lean ====
section
/-! DEFINITION. Several blocks side by side, for example one per telemetry link (R160). A place in the list is the
model's way to say which block is meant: "No instance has an identifier".
-/

namespace Sys2Proof.Machine

/-- The `k`-th block performs one step and no other block takes part. Where there is no `k`-th block nothing happens
(log 11). -/
def stepLink (k : Nat) (links : List State) : Host.Outcome (List State) Fault Refusal :=
  match links[k]? with
  | none => .next links
  | some s =>
    match step s with
    | .next t => .next (links.set k t)
    | .fault r => .fault r
    | .refused r => .refused r

end Sys2Proof.Machine
end

