-- ==== Sys2Proof/Machine/Serial.lean ====
section
/-! DEFINITION. The serial form of a record, `{tag[2:0], value[31:0], start, end}` (R64 to R66).
-/

namespace Sys2Proof.Machine

/-- The serial form (R66). -/
structure SerialRecord (τ : Type) where
  tag   : BitVec 3
  value : Word32
  start : τ
  stop  : τ
  deriving DecidableEq, Repr

/-- `Good` is 0 (R65). -/
def Verdict.code : Verdict → Word32
  | .good => 0#32

/-- A record in serial form: the tags of R64, the values of R66. -/
def DecodedRecord.serial {τ : Type} : DecodedRecord τ → SerialRecord τ
  | .temperature v a e    => ⟨0#3, v.setWidth 32, a, e⟩
  | .voltage v a e        => ⟨1#3, v, a, e⟩
  | .current v a e        => ⟨2#3, v, a, e⟩
  | .consumption v a e    => ⟨3#3, v, a, e⟩
  | .rpm v a e            => ⟨4#3, v, a, e⟩
  | .checksumResult v a e => ⟨5#3, v.code, a, e⟩
  | .badSpan a e          => ⟨6#3, 0#32, a, e⟩

/-- The record that a serial form stands for, if it is one's: tag 7 is never emitted (R64), a Temperature value has
8 bits, and the value of tags 5 and 6 is 0 (R66). -/
def SerialRecord.record {τ : Type} (r : SerialRecord τ) : Option (DecodedRecord τ) :=
  match r.tag.toNat with
  | 0 => if r.value.toNat < 256 then some (.temperature (r.value.setWidth 8) r.start r.stop) else none
  | 1 => some (.voltage r.value r.start r.stop)
  | 2 => some (.current r.value r.start r.stop)
  | 3 => some (.consumption r.value r.start r.stop)
  | 4 => some (.rpm r.value r.start r.stop)
  | 5 => if r.value = 0#32 then some (.checksumResult .good r.start r.stop) else none
  | 6 => if r.value = 0#32 then some (.badSpan r.start r.stop) else none
  | _ => none

end Sys2Proof.Machine
end

