-- ==== Sys2Proof/Machine/Timestamps.lean ====
section
/-! DEFINITION. A change of timestamps, of one type `τ` to another type `σ`, carried through everything that holds one:
the form in which "the block only copies its values and never compares or computes with them" (R8) is stated. With
`σ = BitVec TSW` it is the hardware form of `TSW`-bit timestamps.
-/

namespace Sys2Proof.Machine

section
variable {τ σ : Type}

/-- Both timestamps of a byte. -/
def TimestampedByte.mapTime (g : τ → σ) (b : TimestampedByte τ) : TimestampedByte σ :=
  { value := b.value, startTime := g b.startTime, endTime := g b.endTime }

/-- The span of a record. -/
def DecodedRecord.mapTime (g : τ → σ) : DecodedRecord τ → DecodedRecord σ
  | .temperature v a e    => .temperature v (g a) (g e)
  | .voltage v a e        => .voltage v (g a) (g e)
  | .current v a e        => .current v (g a) (g e)
  | .consumption v a e    => .consumption v (g a) (g e)
  | .rpm v a e            => .rpm v (g a) (g e)
  | .checksumResult v a e => .checksumResult v (g a) (g e)
  | .badSpan a e          => .badSpan (g a) (g e)

/-- The start and end time of a record. -/
def DecodedRecord.span : DecodedRecord τ → τ × τ
  | .temperature _ a e | .voltage _ a e | .current _ a e | .consumption _ a e | .rpm _ a e
  | .checksumResult _ a e | .badSpan a e => (a, e)

/-- The side band of a step. -/
def PortInput.mapTime (g : τ → σ) (p : PortInput τ) : PortInput σ :=
  { rst := p.rst, command := p.command.map fun c => { word := c.word, tsStart := g c.tsStart, tsEnd := g c.tsEnd } }

/-- Every timestamp of the block. -/
def Block.mapTime (g : τ → σ) (B : Block τ) : Block σ :=
  { window := B.window.map (TimestampedByte.mapTime g), acc := B.acc, refused := B.refused }
end

/-- Every timestamp of the state. -/
def State.mapTime (g : Timestamp → Timestamp) (s : State) : State :=
  { s with
    window := s.window.map (TimestampedByte.mapTime g), inputs := s.inputs.map (PortInput.mapTime g),
    out := s.out.map (DecodedRecord.mapTime g), log := s.log.map (DecodedRecord.mapTime g) }

/-- Every timestamp that the state holds meets `P`: those of the window, of the coming inputs and of the records. -/
def State.AllTimes (P : Timestamp → Prop) (s : State) : Prop :=
  (∀ b ∈ s.window, P b.startTime ∧ P b.endTime) ∧
  (∀ p ∈ s.inputs, ∀ c, p.command = some c → P c.tsStart ∧ P c.tsEnd) ∧
  (∀ r ∈ s.out, P r.span.1 ∧ P r.span.2) ∧ (∀ r ∈ s.log, P r.span.1 ∧ P r.span.2)

end Sys2Proof.Machine
end

