-- ==== Sys2Proof/Machine/Flags.lean ====
section
/-! DEFINITION. The block has no flags (R27). What it shows beside its state is computed here: the result bundle
with `res_valid` and `bad_valid` (R67 to R69), and the status outputs `crc_out` and `win_len` (R28 to R30, R70).
-/

namespace Sys2Proof.Machine

/-- The bundle of a step that drives no slot: both valid bits 0, every data wire at a free value (R67, R69). -/
def undrivenBundle (n : Nat) : ResultBundle Timestamp :=
  { resValid := false, badValid := false,
    badStart := Config.undrivenTime 0 n, badEnd := Config.undrivenTime 1 n,
    temp := Config.undrivenByte n, tempStart := Config.undrivenTime 2 n, tempEnd := Config.undrivenTime 3 n,
    volt := Config.undrivenWord 0 n, voltStart := Config.undrivenTime 4 n, voltEnd := Config.undrivenTime 5 n,
    curr := Config.undrivenWord 1 n, currStart := Config.undrivenTime 6 n, currEnd := Config.undrivenTime 7 n,
    cons := Config.undrivenWord 2 n, consStart := Config.undrivenTime 8 n, consEnd := Config.undrivenTime 9 n,
    rpm := Config.undrivenWord 3 n, rpmStart := Config.undrivenTime 10 n, rpmEnd := Config.undrivenTime 11 n,
    chkStart := Config.undrivenTime 12 n, chkEnd := Config.undrivenTime 13 n }

/-- Put one record on its slot. ChecksumResult ends every confirmed frame and raises `res_valid`; BadSpan raises
`bad_valid` (R67). -/
def driveSlot {τ : Type} (w : ResultBundle τ) : DecodedRecord τ → ResultBundle τ
  | .temperature v a e => { w with temp := v, tempStart := a, tempEnd := e }
  | .voltage v a e => { w with volt := v, voltStart := a, voltEnd := e }
  | .current v a e => { w with curr := v, currStart := a, currEnd := e }
  | .consumption v a e => { w with cons := v, consStart := a, consEnd := e }
  | .rpm v a e => { w with rpm := v, rpmStart := a, rpmEnd := e }
  | .checksumResult .good a e => { w with resValid := true, chkStart := a, chkEnd := e }
  | .badSpan a e => { w with badValid := true, badStart := a, badEnd := e }

/-- The result bundle of the step just performed (R67). -/
def State.bundle (s : State) : ResultBundle Timestamp := s.out.foldl driveSlot (undrivenBundle s.freeCount)

/-- The sequence of records that a bundle stands for (R68). -/
def ResultBundle.records {τ : Type} (w : ResultBundle τ) : List (DecodedRecord τ) :=
  if w.resValid then
    (if w.badValid then [.badSpan w.badStart w.badEnd] else []) ++
      [.temperature w.temp w.tempStart w.tempEnd, .voltage w.volt w.voltStart w.voltEnd,
       .current w.curr w.currStart w.currEnd, .consumption w.cons w.consStart w.consEnd,
       .rpm w.rpm w.rpmStart w.rpmEnd, .checksumResult .good w.chkStart w.chkEnd]
  else []

/-- `crc_out` (R28, R29). -/
def State.crcOut (s : State) : Byte := s.acc

/-- `win_len` for a monitor of `width` lines: it saturates (R30). -/
def State.winLenAt (width : Nat) (s : State) : Nat := min s.window.length (2 ^ width - 1)

/-- `win_len` (R28, R30), as a number. -/
def State.winLen (s : State) : Nat := s.winLenAt Config.lw

/-- `win_len[LW-1:0]`, as wires (R70). -/
def State.winLenWires (s : State) : BitVec Config.lw := BitVec.ofNat Config.lw s.winLen

end Sys2Proof.Machine
end

