-- ==== Sys2Proof/Safety.lean ====
section
/-! DEFINITION. What a run shows and when its end is good (R163), and the invariant of the window (R23).
-/

namespace Sys2Proof.Machine

/-- The observation of a run (R163): the record log and the final status outputs. -/
structure Observation where
  records : List (DecodedRecord Timestamp)
  crcOut  : Byte
  winLen  : Nat
  deriving DecidableEq, Repr

/-- What a run that ends in `s` shows (R163). -/
def State.observe (s : State) : Observation := { records := s.log, crcOut := s.crcOut, winLen := s.winLen }

/-- "A run whose state has `refused = true` has no good end" (R163). -/
abbrev State.GoodEnd (s : State) : Prop := s.refused = false

/-- R23, second case: every 10-element window of `W` failed its CRC test. It holds of `[]`. -/
abbrev NoWindowMatches {τ : Type} (W : List (TimestampedByte τ)) : Prop :=
  ∀ j < W.length + 1, 10 ≤ j →
    (W[j - 1]?).map TimestampedByte.value ≠ some (crc8 (vals (slice W (j - 10) (j - 2))))

/-- `k` steps of the block from `s` (R163). -/
def run (k : Nat) (s : State) : Host.Outcome State Fault Refusal := Host.Core.run Sys2Proof.core k s

/-- A run of `k` steps with a good end. The mark can only be raised (R152), so it was down all along. -/
def SafeRun (k : Nat) (s : State) : Prop := ∃ t, run k s = .next t ∧ t.GoodEnd

end Sys2Proof.Machine
end

