-- ==== Sys2Proof/Certificates/Slice0/Obligations.lean ====
section
/-! DEFINITION. Statements for the provers, each from a rule of the spec.

How the statements say what the spec says: "the step returns these records" is said of `out`, "emits no further
record" of `log`, and "the host presents these commands" of `inputs` (the model's own fields, log 2 and 3). No
statement rests on a value of `freeCount` or of a constant without a body (log 4, 7).
-/

open Sys2Proof Sys2Proof.Machine

/-! ### Encoding (30_encoding.md) -/

/-- Words written out from R61 and the instructions they stand for, whatever the side band carries. -/
def Obligations.OpcodeMapWordsDecode : Prop :=
  ∀ a e : Timestamp,
    decodeCommand ⟨0b000_00000000#11, a, e⟩ = .nop 0x00#8 ∧
    decodeCommand ⟨0b001_00011001#11, a, e⟩ = .push 0x19#8 a e ∧
    decodeCommand ⟨0b010_10101011#11, a, e⟩ = .reserved010 0xAB#8 ∧
    decodeCommand ⟨0b011_00000001#11, a, e⟩ = .reserved011 0x01#8 ∧
    decodeCommand ⟨0b100_00000000#11, a, e⟩ = .crcClr 0x00#8 ∧
    decodeCommand ⟨0b101_00110000#11, a, e⟩ = .crcUpd 0x30#8 ∧
    decodeCommand ⟨0b110_00000000#11, a, e⟩ = .reserved110 0x00#8 ∧
    decodeCommand ⟨0b111_11111111#11, a, e⟩ = .reserved111 0xFF#8

/-- R61, R62: the value of `cmd[10:8]` alone selects the operation, and `cmd[7:0]` and the side band are its
operands. -/
def Obligations.OpFieldSelectsTheOperation : Prop :=
  ∀ (c : Command Timestamp) (op d : Nat), op < 8 → d < 256 → c.word.toNat = 256 * op + d →
    (op = 0 → decodeCommand c = .nop (BitVec.ofNat 8 d)) ∧
    (op = 1 → decodeCommand c = .push (BitVec.ofNat 8 d) c.tsStart c.tsEnd) ∧
    (op = 2 → decodeCommand c = .reserved010 (BitVec.ofNat 8 d)) ∧
    (op = 3 → decodeCommand c = .reserved011 (BitVec.ofNat 8 d)) ∧
    (op = 4 → decodeCommand c = .crcClr (BitVec.ofNat 8 d)) ∧
    (op = 5 → decodeCommand c = .crcUpd (BitVec.ofNat 8 d)) ∧
    (op = 6 → decodeCommand c = .reserved110 (BitVec.ofNat 8 d)) ∧
    (op = 7 → decodeCommand c = .reserved111 (BitVec.ofNat 8 d))

/-- Decoding what was encoded gives the instruction back, from the port and from the two-byte container (log 8),
whatever bytes follow. -/
def Obligations.DecodeOfEncodeIsTheInstruction : Prop :=
  ∀ i : Instr, decodeCommand (encode i) = i ∧
    ∀ rest, decodeBytes (encodeBytes i ++ rest) (encode i).tsStart (encode i).tsEnd = .ok (i, rest)

/-- Encoding what was decoded gives the word back, for each of the 2048 words, and the bytes back for each pair of
bytes that the container (log 8) admits. -/
def Obligations.EncodeOfDecodeIsTheWord : Prop :=
  (∀ c : Command Timestamp, encodeWord (decodeCommand c) = c.word) ∧
  ∀ lo hi rest a e i left, decodeBytes (lo :: hi :: rest) a e = .ok (i, left) → encodeBytes i = [lo, hi] ∧ left = rest

/-- The rows of the opcode table divide the 2048 words, and each word decodes to its row's instruction. -/
def Obligations.OpcodeTableRowsPartitionTheWords : Prop :=
  ∀ w : CmdWord, ∃ r ∈ opcodeTable, r.holds w = true ∧ (∀ r' ∈ opcodeTable, r'.holds w = true → r' = r) ∧
    ∀ a e, (decodeCommand ⟨w, a, e⟩).mnemonic = r.mnemonic

/-- The container (log 8) is refused by name: too few bytes, or a bit above `cmd[10]`. -/
def Obligations.DecodeBytesRefusesByName : Prop :=
  ∀ bs a e,
    (decodeBytes bs a e = .error .truncated ↔ bs.length < 2) ∧
    (decodeBytes bs a e = .error .bitsAboveTen ↔ ∃ lo hi rest, bs = lo :: hi :: rest ∧ 8 ≤ hi.toNat)

/-- R66: each kind's tag and value in serial form, and a serial form stands for at most one record; for
timestamps of any type (R8). -/
def Obligations.SerialFormCarriesTheSameInformation : Prop :=
  (∀ (τ : Type) (v : Byte) (x : Word32) (a e : τ),
    (DecodedRecord.temperature v a e).serial = ⟨0#3, BitVec.ofNat 32 v.toNat, a, e⟩ ∧
    (DecodedRecord.voltage x a e).serial = ⟨1#3, x, a, e⟩ ∧
    (DecodedRecord.current x a e).serial = ⟨2#3, x, a, e⟩ ∧
    (DecodedRecord.consumption x a e).serial = ⟨3#3, x, a, e⟩ ∧
    (DecodedRecord.rpm x a e).serial = ⟨4#3, x, a, e⟩ ∧
    (DecodedRecord.checksumResult .good a e).serial = ⟨5#3, 0#32, a, e⟩ ∧
    (DecodedRecord.badSpan a e).serial = ⟨6#3, 0#32, a, e⟩) ∧
  (∀ (τ : Type) (r : DecodedRecord τ), r.serial.record = some r ∧ r.serial.tag ≠ 7#3) ∧
  ∀ (τ : Type) (x : SerialRecord τ) (r : DecodedRecord τ), x.record = some r → r.serial = x

/-- R72: the port values of each line of a program. R72 gives the lines NOP, CRC_CLR and CRC_UPD no timestamps and R62
lets the block ignore the side band there: that it then carries `Timestamp.low` twice is the model's choice (DESIGN
CHOICE, log 12), and so are the clauses of these three lines in that part. -/
def Obligations.AssemblerLinesOnThePort : Prop :=
  AsmLine.nop.portInput = ⟨false, some ⟨0x000#11, Timestamp.low, Timestamp.low⟩⟩ ∧
  (∀ v s e, ∃ w, (AsmLine.push v s e).portInput = ⟨false, some ⟨w, s, e⟩⟩ ∧ w.toNat = 0x100 + v.toNat) ∧
  AsmLine.crcClr.portInput = ⟨false, some ⟨0x400#11, Timestamp.low, Timestamp.low⟩⟩ ∧
  (∀ v, ∃ w, (AsmLine.crcUpd v).portInput = ⟨false, some ⟨w, Timestamp.low, Timestamp.low⟩⟩ ∧
    w.toNat = 0x500 + v.toNat) ∧
  AsmLine.reset.portInput = ⟨true, none⟩

/-! ### Steps, reset, completion -/

/-- A presented command is decoded and performed on the state with the port values taken (log 2). -/
def Obligations.StepRunsTheDecodedCommand : Prop :=
  ∀ (s : State) (c : Command Timestamp) (i : Instr) (rest : List (PortInput Timestamp)),
    s.inputs = ⟨false, some c⟩ :: rest → decodeCommand c = i → step s = exec i { s with inputs := rest }

/-- "A step with no command from the host is a NOP" (R60), past the end of the list (log 2) too. -/
def Obligations.StepWithoutCommandIsNop : Prop :=
  ∀ (s : State) (d : Byte),
    (∀ rest, s.inputs = ⟨false, none⟩ :: rest → step s = exec (.nop d) { s with inputs := rest }) ∧
    (s.inputs = [] → step s = exec (.nop d) s)

/-- R150, R155: no command stops the block, and no step does. What a command adds to the observation is the step's
own sequence (R68, log 3); it takes nothing from the coming port values (log 2). That the four reserved commands, and a
step or a run that performs one, answer a next state too is the model's reading and not the spec's word: R152 says the
model refuses such a command, and the model takes that refusal to be the mark in a next state (DEDUCED, unsafe for such
runs; log 5). -/
def Obligations.EveryCommandAndStepCompletes : Prop :=
  (∀ i s, ∃ t, exec i s = .next t ∧ t.log = s.log ++ t.out ∧ t.inputs = s.inputs) ∧
  (∀ s, ∃ t, step s = .next t ∧ t.log = s.log ++ t.out ∧ t.inputs = s.inputs.tail) ∧
  ∀ k s, ∃ t, run k s = .next t ∧ t.inputs = s.inputs.drop k

/-- R35: the reset values; every `fs` will do in the bounded form. -/
def Obligations.ResetValues : Prop :=
  State.reset.window = [] ∧ State.reset.acc = 0x00#8 ∧ State.reset.crcOut = 0x00#8 ∧ State.reset.winLen = 0 ∧
  State.reset.refused = false ∧ (∀ fs, BoundedWindow.Represents ⟨0, [], fs⟩ State.reset.window) ∧
  ∀ s : State, s.applyReset.refused = s.refused

/-- R170: a step with `rst` asserted applies reset and no command. -/
def Obligations.ResetStepIsSystemStart : Prop :=
  (State.reset.window = [] ∧ State.reset.acc = 0x00#8 ∧ State.reset.winLen = 0) ∧
  ∀ (s : State) (c : Option (Command Timestamp)) (rest : List (PortInput Timestamp)),
    s.inputs = ⟨true, c⟩ :: rest →
    ∃ t, step s = .next t ∧ t.window = [] ∧ t.acc = 0x00#8 ∧ t.winLen = 0 ∧ t.refused = s.refused ∧
      t.out = [] ∧ t.log = s.log

/-- R178: a command that arrives with `rst` is discarded: it makes no difference to the step. -/
def Obligations.ResetDiscardsTheCommand : Prop :=
  ∀ (s s' : State) (c : Command Timestamp) (rest : List (PortInput Timestamp)),
    s.inputs = ⟨true, some c⟩ :: rest → s' = { s with inputs := ⟨true, none⟩ :: rest } →
    step s = step s' ∧ ∃ t, step s = .next t ∧ t.refused = s.refused ∧ t.window = [] ∧ t.out = [] ∧ t.inputs = rest

/-! ### NOP, CRC_CLR, CRC_UPD, the reserved encodings -/

/-- R110. -/
def Obligations.NopChangesNothing : Prop :=
  (∀ w : CmdWord, w &&& 0x700#11 = 0x000#11 → ∀ a e, ∃ d, decodeCommand ⟨w, a, e⟩ = .nop d) ∧
  ∀ (d : Byte) (s : State), ∃ t, exec (.nop d) s = .next t ∧
    t.window = s.window ∧ t.acc = s.acc ∧ t.refused = s.refused ∧ t.winLen = s.winLen ∧
    t.out = [] ∧ t.log = s.log ∧ t.bundle.resValid = false ∧
    ∀ v a e, ∃ u u', exec (.push v a e) s = .next u ∧ exec (.push v a e) t = .next u' ∧
      u'.window = u.window ∧ u'.out = u.out ∧ u'.log = u.log

/-- R85. -/
def Obligations.CrcClrClearsTheAccumulator : Prop :=
  (∀ w : CmdWord, w &&& 0x700#11 = 0x400#11 → ∀ a e, ∃ d, decodeCommand ⟨w, a, e⟩ = .crcClr d) ∧
  ∀ (d : Byte) (s : State), ∃ t, exec (.crcClr d) s = .next t ∧
    t.acc = 0x00#8 ∧ t.crcOut = 0x00#8 ∧ t.window = s.window ∧ t.refused = s.refused ∧
    t.out = [] ∧ t.log = s.log ∧ t.bundle.resValid = false ∧
    ∀ d', ∃ u, exec (.crcClr d') t = .next u ∧ u.acc = t.acc ∧ u.window = t.window ∧ u.refused = t.refused ∧
      u.log = t.log

/-- R86. -/
def Obligations.CrcUpdAbsorbsOneByte : Prop :=
  (∀ w : CmdWord, w &&& 0x700#11 = 0x500#11 → ∀ a e,
    decodeCommand ⟨w, a, e⟩ = .crcUpd (BitVec.ofNat 8 w.toNat)) ∧
  (∀ (d : Byte) (s : State), ∃ t, exec (.crcUpd d) s = .next t ∧
    t.acc = crc8Step s.acc d ∧ t.crcOut = crc8Step s.acc d ∧ (d = s.acc → t.acc = 0x00#8) ∧
    t.window = s.window ∧ t.refused = s.refused ∧ t.out = [] ∧ t.log = s.log) ∧
  ∀ s : State, s.acc = 0x07#8 → ∃ t, exec (.crcUpd 0x02#8) s = .next t ∧ t.crcOut = 0x1B#8

/-- The four reserved commands set the mark and change nothing else of the block; no later step clears it (R152). That
each of them answers a next state is the model's reading of R152, which calls it a refusal (DEDUCED, unsafe for a run that
performs one; log 5). -/
def Obligations.ReservedCommandsSetTheMark : Prop :=
  (∀ c : Command Timestamp,
    (decodeCommand c).isReserved = true ↔ opField c.word ∈ [0b010#3, 0b011#3, 0b110#3, 0b111#3]) ∧
  (∀ (d : Byte) (i : Instr), i ∈ [.reserved010 d, .reserved011 d, .reserved110 d, .reserved111 d] →
    ∀ s : State, ∃ t, exec i s = .next t ∧ t.refused = true ∧ t.window = s.window ∧ t.acc = s.acc ∧
      t.out = [] ∧ t.log = s.log) ∧
  (∀ s t : State, s.refused = true → step s = .next t → t.refused = true) ∧
  ∀ s : State, s.refused = true → ¬ s.GoodEnd

/-- The mark rises in exactly the steps that perform a reserved command, so not in one where `rst` discards it. That such
a step answers a next state is the model's reading of R152 (log 5); that `rst` leaves the mark is R170's (log 13). -/
def Obligations.MarkRisesOnlyOnReservedCommands : Prop :=
  ∀ s t : State, step s = .next t →
    t.refused = (s.refused || (!s.presented.rst && s.presented.instr.isReserved))

/-- R163, R152: a run has a good end exactly if the mark was down and no step of it performed a reserved command. A run
that performs one goes on with the mark up, by the model's reading of R152 (log 5), and so has no good end. -/
def Obligations.GoodEndMeansNoReservedCommand : Prop :=
  ∀ (k : Nat) (s : State), SafeRun k s ↔
    s.refused = false ∧ ∀ p ∈ s.inputs.take k, p.rst = true ∨ p.instr.isReserved = false

/-- R29: what writes `acc`, what reads it. -/
def Obligations.AccWrittenOnlyByTheCrcPort : Prop :=
  (∀ s t : State, step s = .next t →
    (s.presented.rst = true ∧ t.acc = 0x00#8) ∨
    (s.presented.rst = false ∧ (∃ d, s.presented.instr = .crcClr d) ∧ t.acc = 0x00#8) ∨
    (s.presented.rst = false ∧ (∃ d, s.presented.instr = .crcUpd d ∧ t.acc = crc8Step s.acc d)) ∨
    (s.presented.rst = false ∧ (∀ d, s.presented.instr ≠ .crcClr d ∧ s.presented.instr ≠ .crcUpd d) ∧
      t.acc = s.acc)) ∧
  (∀ s : State, s.crcOut = s.acc) ∧
  ∀ (i : Instr) (x : Byte) (s t u : State), exec i s = .next t → exec i { s with acc := x } = .next u →
    u.window = t.window ∧ u.out = t.out ∧ u.log = t.log ∧ u.refused = t.refused ∧ u.winLen = t.winLen

/-- R88: the CRC port's commands do not touch the synchronizer and do not read it. -/
def Obligations.CrcPortLeavesTheSynchronizer : Prop :=
  ∀ (i : Instr), (∃ d, i = .crcClr d ∨ i = .crcUpd d) → ∀ s : State, ∃ t, exec i s = .next t ∧
    t.window = s.window ∧ t.out = [] ∧ t.log = s.log ∧ t.refused = s.refused ∧
    ∀ W, exec i { s with window := W } = .next { t with window := W }

/-! ### PUSH (41_sync.md) -/

/-- R102: fewer than ten elements after the append. -/
def Obligations.PushWhileAccumulatingEmitsNothing : Prop :=
  ∀ (s : State) (v : Byte) (a e : Timestamp), (s.window ++ [timestampedByte v a e]).length < 10 →
    ∃ t, exec (.push v a e) s = .next t ∧ t.window = s.window ++ [⟨v, a, e⟩] ∧ t.out = [] ∧ t.log = s.log ∧
      t.acc = s.acc ∧ t.refused = s.refused

/-- R104: a mismatch keeps every element, the new one too. -/
def Obligations.PushMismatchKeepsTheWindow : Prop :=
  ∀ (s : State) (v : Byte) (a e : Timestamp) (bad : List (TimestampedByte Timestamp)) (f : Frame Timestamp),
    s.window ++ [⟨v, a, e⟩] = bad ++ f.toList → crc8 (vals f.payload.toList) ≠ f.crcByte.value →
    ∃ t, exec (.push v a e) s = .next t ∧ t.window = s.window ++ [⟨v, a, e⟩] ∧ t.out = [] ∧ t.log = s.log ∧
      t.acc = s.acc ∧ t.refused = s.refused

/-- R101, R105, R106: a match emits the records in their order, the BadSpan only for a non-empty lead-in, and clears
the window. -/
def Obligations.PushMatchEmitsTheFrameAndClears : Prop :=
  ∀ (s : State) (v : Byte) (a e : Timestamp) (bad : List (TimestampedByte Timestamp)) (f : Frame Timestamp),
    s.window ++ [⟨v, a, e⟩] = bad ++ f.toList → crc8 (vals f.payload.toList) = f.crcByte.value →
    ∃ t spans, exec (.push v a e) s = .next t ∧ t.window = [] ∧ t.acc = s.acc ∧ t.refused = s.refused ∧
      t.log = s.log ++ t.out ∧
      ((bad = [] ∧ spans = []) ∨ ∃ first last, bad.head? = some first ∧ bad.getLast? = some last ∧
        spans = [DecodedRecord.badSpan first.startTime last.endTime]) ∧
      t.out = spans ++
        [.temperature f.payload.p0.value f.payload.p0.startTime f.payload.p0.endTime,
         .voltage (scaledField f.payload.p1 f.payload.p2) f.payload.p1.startTime f.payload.p2.endTime,
         .current (scaledField f.payload.p3 f.payload.p4) f.payload.p3.startTime f.payload.p4.endTime,
         .consumption (scaledField f.payload.p5 f.payload.p6) f.payload.p5.startTime f.payload.p6.endTime,
         .rpm (scaledField f.payload.p7 f.payload.p8) f.payload.p7.startTime f.payload.p8.endTime,
         .checksumResult .good f.crcByte.startTime f.crcByte.endTime]

/-- R103, in the index form of R100 step 3: the last ten elements decide, and the elements before them do not. -/
def Obligations.PushTestsOnlyTheLastTen : Prop :=
  ∀ (s : State) (v : Byte) (a e : Timestamp) (W : List (TimestampedByte Timestamp)),
    W = s.window ++ [timestampedByte v a e] → 10 ≤ W.length →
    ∃ t, exec (.push v a e) s = .next t ∧
      (t.bundle.resValid = true ↔
        (W[W.length - 1]?).map TimestampedByte.value =
          some (crc8 (vals (slice W (W.length - 10) (W.length - 2))))) ∧
      ∀ s' : State, 9 ≤ s'.window.length →
        s'.window.drop (s'.window.length - 9) = s.window.drop (s.window.length - 9) →
        ∃ t', exec (.push v a e) s' = .next t' ∧ t'.bundle.resValid = t.bundle.resValid

/-- R116: 0, 6 or 7 records; 7 exactly when a match has more than ten elements; a BadSpan comes first, before the six
records of a frame. -/
def Obligations.PushEmitsNoneSixOrSeven : Prop :=
  ∀ (s : State) (v : Byte) (a e : Timestamp), ∃ t, exec (.push v a e) s = .next t ∧
    (t.out.length = 0 ∨ t.out.length = 6 ∨ t.out.length = 7) ∧
    (t.out.length = 7 ↔ t.bundle.resValid = true ∧ 10 < (s.window ++ [timestampedByte v a e]).length) ∧
    ∀ x y, DecodedRecord.badSpan x y ∈ t.out →
      ∃ p c, t.out = .badSpan x y :: (decodePayload p ++ [checksumGood c])

/-- R22: the three ways in which the window changes. -/
def Obligations.WindowChangesInThreeWays : Prop :=
  ∀ s t : State, step s = .next t →
    t.window = s.window ∨
    (∃ b, s.presented.pushed = some b ∧ t.window = s.window ++ [b]) ∨
    (t.window = [] ∧ s.presented.rst = true) ∨
    (t.window = [] ∧ ∃ b, s.presented.pushed = some b ∧ ∃ bad f, s.window ++ [b] = bad ++ Frame.toList f ∧
      crc8 (vals f.payload.toList) = f.crcByte.value)

/-- R49. -/
def Obligations.SideEffectsAndIdempotency : Prop :=
  (∀ (s : State) (v : Byte) (a e : Timestamp), ∃ t u, exec (.push v a e) s = .next t ∧
    exec (.push v a e) t = .next u ∧ t.window ≠ s.window ∧ u.window ≠ t.window) ∧
  (∃ (d : Byte) (s t u : State), exec (.crcUpd d) s = .next t ∧ exec (.crcUpd d) t = .next u ∧ u.acc ≠ t.acc) ∧
  (∀ (d : Byte) (s : State), ∃ t, exec (.nop d) s = .next t ∧ t.window = s.window ∧ t.acc = s.acc ∧
    t.refused = s.refused) ∧
  ∀ (d : Byte) (s : State), ∃ t u, exec (.crcClr d) s = .next t ∧ exec (.crcClr d) t = .next u ∧
    u.window = t.window ∧ u.acc = t.acc ∧ u.refused = t.refused

/-! ### Runs of the synchronizer -/

/-- R111, with any other commands but a reset in between. That the run goes on past a reserved command among them is the
model's reading of R152 and not R111's word (DEDUCED, log 5, 6). -/
def Obligations.FewerThanTenPushesEmitNothing : Prop :=
  ∀ (s : State) (ins rest : List (PortInput Timestamp)), s.window = [] → s.inputs = ins ++ rest →
    (∀ p ∈ ins, p.rst = false) → (ins.filterMap PortInput.pushed).length < 10 →
    ∃ t, run ins.length s = .next t ∧ t.log = s.log ∧ t.window = ins.filterMap PortInput.pushed

/-- R112. -/
def Obligations.FrameFromEmptyWindowDecodes : Prop :=
  ∀ (s : State) (p : Payload Timestamp) (c : TimestampedByte Timestamp) (rest : List (PortInput Timestamp)),
    s.window = [] → s.inputs = pushInputs (p.toList ++ [c]) ++ rest → c.value = crc8 (vals p.toList) →
    (∃ u, run 9 s = .next u ∧ u.log = s.log ∧ u.window = p.toList) ∧
    ∃ t, run 10 s = .next t ∧ t.window = [] ∧ t.out = decodePayload p ++ [checksumGood c] ∧ t.log = s.log ++ t.out

/-- R113: noise, then a frame, with no window before the frame's end that passes. -/
def Obligations.ResynchronizationReportsOneBadSpan : Prop :=
  ∀ (s : State) (N : List (TimestampedByte Timestamp)) (f : Frame Timestamp) (rest : List (PortInput Timestamp)),
    s.window = [] → N ≠ [] → crc8 (vals f.payload.toList) = f.crcByte.value →
    (∀ j, 10 ≤ j → j ≤ N.length + 9 →
      ((N ++ f.toList)[j - 1]?).map TimestampedByte.value ≠ some (crc8 (vals (slice (N ++ f.toList) (j - 10) (j - 2))))) →
    s.inputs = pushInputs (N ++ f.toList) ++ rest →
    (∃ u, run (N.length + 9) s = .next u ∧ u.log = s.log) ∧
    ∃ t first last, run (N.length + 10) s = .next t ∧ N.head? = some first ∧ N.getLast? = some last ∧
      t.out = .badSpan first.startTime last.endTime :: (decodePayload f.payload ++ [checksumGood f.crcByte]) ∧
      t.log = s.log ++ t.out ∧ t.window = []

/-- R118, R107: the first match in noise and frame is authoritative, even one that straddles them: it is decoded, and
what is left of the frame starts a window that emits nothing. -/
def Obligations.SpuriousMatchLosesTheFrame : Prop :=
  ∀ (s : State) (N bad : List (TimestampedByte Timestamp)) (f g : Frame Timestamp) (j : Nat)
    (rest : List (PortInput Timestamp)), s.window = [] → N.length < j → j < N.length + 10 →
    (N ++ f.toList).take j = bad ++ g.toList →
    crc8 (vals g.payload.toList) = g.crcByte.value →
    (∀ i, 10 ≤ i → i < j →
      ((N ++ f.toList)[i - 1]?).map TimestampedByte.value ≠ some (crc8 (vals (slice (N ++ f.toList) (i - 10) (i - 2))))) →
    s.inputs = pushInputs (N ++ f.toList) ++ rest →
    ∃ t, run (N.length + 10) s = .next t ∧ t.log = s.log ++ frameRecords bad g ∧ t.window = (N ++ f.toList).drop j

/-- R114: a step that emits leaves an empty window, and the next frame decodes without a BadSpan. -/
def Obligations.EmissionEmptiesTheWindow : Prop :=
  ∀ s t : State, step s = .next t → t.out ≠ [] → t.window = [] ∧
    ∀ (p : Payload Timestamp) (c : TimestampedByte Timestamp) (rest : List (PortInput Timestamp)),
      c.value = crc8 (vals p.toList) → t.inputs = pushInputs (p.toList ++ [c]) ++ rest →
      ∃ u, run 10 t = .next u ∧ u.out = decodePayload p ++ [checksumGood c] ∧ u.log = t.log ++ u.out ∧ u.window = []

/-- R117: nine bytes and the end of the stream give no output at all, however long the block then idles. -/
def Obligations.TailOfTheStreamIsDropped : Prop :=
  ∀ (s : State) (p : Payload Timestamp) (k : Nat), s.window = [] → s.inputs = pushInputs p.toList →
    ∃ t, run (9 + k) s = .next t ∧ t.log = s.log ∧ t.window = p.toList

/-- R109: when the stream ends nothing happens, and a later reset discards what is left without a record. -/
def Obligations.StreamEndFlushesNothing : Prop :=
  ∀ (s : State) (k : Nat), s.inputs = [] → ∃ t, run k s = .next t ∧ t.window = s.window ∧ t.log = s.log ∧
    t.acc = s.acc ∧ t.refused = s.refused ∧
    ∃ u, stepPort ⟨true, none⟩ t = .next u ∧ u.window = [] ∧ u.out = [] ∧ u.log = s.log

/-- R119: ten zero bytes pass, whatever the type of their timestamps; a run of zeros from an empty window confirms an
all-zero frame at each tenth zero, with no BadSpan; from any window it confirms a frame no later than the push whose last ten elements are all zero. -/
def Obligations.ZeroRunsConfirmFrames : Prop :=
  (∀ (τ : Type) (f : Frame τ), (∀ b ∈ f.toList, b.value = 0x00#8) → crc8 (vals f.payload.toList) = f.crcByte.value) ∧
  (∀ (s : State) (fs : List (Frame Timestamp)) (rest : List (PortInput Timestamp)), s.window = [] →
    (∀ f ∈ fs, ∀ b ∈ f.toList, b.value = 0x00#8) → s.inputs = pushInputs (fs.flatMap Frame.toList) ++ rest →
    ∃ t, run (10 * fs.length) s = .next t ∧ t.window = [] ∧
      t.log = s.log ++ fs.flatMap fun f =>
        [.temperature 0x00#8 f.payload.p0.startTime f.payload.p0.endTime,
         .voltage 0#32 f.payload.p1.startTime f.payload.p2.endTime,
         .current 0#32 f.payload.p3.startTime f.payload.p4.endTime,
         .consumption 0#32 f.payload.p5.startTime f.payload.p6.endTime,
         .rpm 0#32 f.payload.p7.startTime f.payload.p8.endTime,
         .checksumResult .good f.crcByte.startTime f.crcByte.endTime]) ∧
  ∀ (s : State) (bs : List (TimestampedByte Timestamp)) (rest : List (PortInput Timestamp)),
    bs ≠ [] → (∀ b ∈ bs, b.value = 0x00#8) →
    10 ≤ (s.window ++ bs).length → (∀ b ∈ (s.window ++ bs).drop ((s.window ++ bs).length - 10), b.value = 0x00#8) →
    s.inputs = pushInputs bs ++ rest →
    ∃ m t, 1 ≤ m ∧ m ≤ bs.length ∧ run m s = .next t ∧ t.out ≠ []

/-- R24, by vector S-10: the window grows without bound; no step truncates it. -/
def Obligations.WindowGrowsWithoutBound : Prop :=
  ∀ (s : State) (bs : List (TimestampedByte Timestamp)) (rest : List (PortInput Timestamp)), s.window = [] →
    (∀ b ∈ bs, b.value = 0x01#8) → s.inputs = pushInputs bs ++ rest →
    ∃ t, run bs.length s = .next t ∧ t.window = bs ∧ t.log = s.log

/-! ### Invariants and whole-machine rules -/

/-- R23: after every step, no 10-element window of `W` passes, and `W` is empty or what it was with the step's byte. -/
def Obligations.WindowInvariantIsKept : Prop :=
  ∀ s t : State, NoWindowMatches s.window → step s = .next t →
    NoWindowMatches t.window ∧ (t.window = [] ∨ t.window = s.window ++ s.presented.pushed.toList)

/-- The invariant of R23 holds of a fresh block. -/
def Obligations.ResetMeetsTheWindowInvariant : Prop := NoWindowMatches State.reset.window

/-- R23 over runs from a fresh block: the window is empty, or holds every byte pushed since a time when it was empty,
in order, and no 10-element window of it passes. -/
def Obligations.WindowHoldsTheBytesSinceTheLastClear : Prop :=
  ∀ (s t : State) (ins rest : List (PortInput Timestamp)), s.window = [] → s.inputs = ins ++ rest →
    run ins.length s = .next t → NoWindowMatches t.window ∧
    ∃ done since u, ins = done ++ since ∧ run done.length s = .next u ∧ u.window = [] ∧
      (∀ p ∈ since, p.rst = false) ∧ t.window = since.filterMap PortInput.pushed

/-- R33: the bounded PUSH emits what PUSH emits, and the triples go on representing the window. -/
def Obligations.BoundedPushRefinesPush : Prop :=
  ∀ (s : State) (r : BoundedWindow Timestamp) (v : Byte) (a e : Timestamp), r.Represents s.window →
    ∃ t, exec (.push v a e) s = .next t ∧ (boundedProcess r ⟨v, a, e⟩).2 = t.out ∧
      (boundedProcess r ⟨v, a, e⟩).1.Represents t.window

/-- R31, R36: two blocks whose windows agree in length up to 10, in their last elements up to 10 and in the oldest
element's start time show the same records and `crc_out` at every later step. That a run with a reserved command goes on is
the model's reading of R152 (DEDUCED, log 5, 6). -/
def Obligations.OutputsDependOnlyOnTheWindowView : Prop :=
  ∀ (s s' : State) (k : Nat), windowView s.window = windowView s'.window → s.acc = s'.acc →
    s.refused = s'.refused → s.inputs = s'.inputs → s.log = s'.log →
    ∃ t t', run k s = .next t ∧ run k s' = .next t' ∧ windowView t.window = windowView t'.window ∧
      t.crcOut = t'.crcOut ∧ t.refused = t'.refused ∧ t.log = t'.log ∧ (0 < k → t.out = t'.out)

/-- R115: what a run adds to the log, and the block's state at its end, depend on the block's state at the start and
on the commands alone. That a run with a reserved command goes on is the model's reading of R152 (DEDUCED, log 5, 6). -/
def Obligations.RunsAreAFunctionOfStateAndCommands : Prop :=
  ∀ (s s' : State) (k : Nat), s.window = s'.window → s.acc = s'.acc → s.refused = s'.refused → s.inputs = s'.inputs →
    ∃ t t' added, run k s = .next t ∧ run k s' = .next t' ∧ t.log = s.log ++ added ∧ t'.log = s'.log ++ added ∧
      t.window = t'.window ∧ t.acc = t'.acc ∧ t.refused = t'.refused ∧ t.winLen = t'.winLen ∧
      (s.log = s'.log → t.observe = t'.observe)

/-- R8, R158: the block only copies timestamps, so changing every timestamp by one function `g` changes every step by
`g` and nothing else (log 1). -/
def Obligations.TimestampsAreOnlyCopied : Prop :=
  ∀ (g : Timestamp → Timestamp) (s t : State), step s = .next t → step (s.mapTime g) = .next (t.mapTime g)

/-- R158: the block creates no timestamp: whatever holds of all timestamps of window, inputs and records goes on
holding. -/
def Obligations.NoTimestampIsCreated : Prop :=
  ∀ (P : Timestamp → Prop) (s t : State), s.AllTimes P → step s = .next t → t.AllTimes P

/-- R160: stepping one block leaves every other as it is, and steps of different blocks can be exchanged. -/
def Obligations.LinksAreIndependent : Prop :=
  (∀ (k j : Nat) (ls ms : List State), stepLink k ls = .next ms → k ≠ j → ms[j]? = ls[j]?) ∧
  ∀ (k j : Nat) (ls : List State), k ≠ j → ∃ ks js both, stepLink k ls = .next ks ∧ stepLink j ls = .next js ∧
    stepLink j ks = .next both ∧ stepLink k js = .next both

/-! ### The result bundle and the status outputs -/

/-- R68: the bundle stands for the step's records; for a step that is no PUSH, and for one with `res_valid = 0`, the
sequence is empty; the observation is the concatenation. -/
def Obligations.BundleStandsForTheRecords : Prop :=
  ∀ s t : State, step s = .next t → t.bundle.records = t.out ∧ t.log = s.log ++ t.bundle.records ∧
    (s.presented.pushed = none → t.bundle.records = []) ∧ (t.bundle.resValid = false → t.bundle.records = []) ∧
    (t.bundle.resValid = true → t.out =
      (if t.bundle.badValid then [.badSpan t.bundle.badStart t.bundle.badEnd] else []) ++
        [.temperature t.bundle.temp t.bundle.tempStart t.bundle.tempEnd,
         .voltage t.bundle.volt t.bundle.voltStart t.bundle.voltEnd,
         .current t.bundle.curr t.bundle.currStart t.bundle.currEnd,
         .consumption t.bundle.cons t.bundle.consStart t.bundle.consEnd,
         .rpm t.bundle.rpm t.bundle.rpmStart t.bundle.rpmEnd,
         .checksumResult .good t.bundle.chkStart t.bundle.chkEnd])

/-- R67, R153: `res_valid` is 1 in exactly the steps that push and match; `bad_valid` is 1 in exactly those of them
whose window had more than ten elements. -/
def Obligations.ValidBitsMarkConfirmedFrames : Prop :=
  ∀ s t : State, step s = .next t →
    (t.bundle.resValid = true ↔ ∃ b bad f, s.presented.pushed = some b ∧ s.window ++ [b] = bad ++ Frame.toList f ∧
      crc8 (vals f.payload.toList) = f.crcByte.value) ∧
    (t.bundle.badValid = true ↔ t.bundle.resValid = true ∧ 10 ≤ s.window.length)

/-- R28, R30: `crc_out` and `win_len`; `LW` is at least 4, so that 0 to 10 are told apart. -/
def Obligations.StatusOutputs : Prop :=
  4 ≤ Config.lw ∧ ∀ s : State, s.crcOut = s.acc ∧ s.winLen = min s.window.length (2 ^ Config.lw - 1) ∧
    s.winLenWires.toNat = s.winLen ∧ (s.window.length ≤ 10 → s.winLen = s.window.length)

/-! ### The frame decoder (42_decode.md) -/

/-- R131, for timestamps of any type (R8). -/
def Obligations.DecodeListsTheFiveFields : Prop :=
  ∀ (τ : Type) (p : Payload τ), decodePayload p =
    [.temperature p.p0.value p.p0.startTime p.p0.endTime,
     .voltage (BitVec.setWidth 32 (p.p1.value ++ p.p2.value) * 10#32) p.p1.startTime p.p2.endTime,
     .current (BitVec.setWidth 32 (p.p3.value ++ p.p4.value) * 10#32) p.p3.startTime p.p4.endTime,
     .consumption (BitVec.setWidth 32 (p.p5.value ++ p.p6.value) * 10#32) p.p5.startTime p.p6.endTime,
     .rpm (BitVec.setWidth 32 (p.p7.value ++ p.p8.value) * 10#32) p.p7.startTime p.p8.endTime]

/-- R42, R138: the two bytes are big-endian, the product never wraps, and it is two shifts and a sum; Temperature is
the unscaled byte. -/
def Obligations.ScaledFieldsAreBigEndianTimesTen : Prop :=
  ∀ (τ : Type) (hi lo : TimestampedByte τ),
    (hi.value ++ lo.value : BitVec 16).toNat = hi.value.toNat * 256 + lo.value.toNat ∧
    (scaledField hi lo).toNat = (hi.value.toNat * 256 + lo.value.toNat) * 10 ∧
    (scaledField hi lo).toNat ≤ 655350 ∧ 10 ∣ (scaledField hi lo).toNat ∧ (scaledField hi lo).toNat < 2 ^ 20 ∧
    scaledField hi lo =
      (BitVec.setWidth 32 (hi.value ++ lo.value) <<< 3) + (BitVec.setWidth 32 (hi.value ++ lo.value) <<< 1) ∧
    ∀ p : Payload τ, decodeTemperature p = .temperature p.p0.value p.p0.startTime p.p0.endTime ∧
      decodeVoltage p = .voltage (scaledField p.p1 p.p2) p.p1.startTime p.p2.endTime ∧
      decodeCurrent p = .current (scaledField p.p3 p.p4) p.p3.startTime p.p4.endTime ∧
      decodeConsumption p = .consumption (scaledField p.p5 p.p6) p.p5.startTime p.p6.endTime ∧
      decodeRpm p = .rpm (scaledField p.p7 p.p8) p.p7.startTime p.p8.endTime

/-! ### The CRC (40_crc.md) -/

/-- R80. -/
def Obligations.CrcStepIsEightShifts : Prop :=
  (∀ c b : Byte, crc8Step c b =
    (fun r : Byte => if r.getLsbD 7 then (r <<< 1) ^^^ 0x07#8 else r <<< 1)^[8] (c ^^^ b)) ∧
  (∀ c : Byte, crc8Step c c = 0x00#8) ∧ crc8Step 0x00#8 0x00#8 = 0x00#8 ∧ crc8Step 0x00#8 0x01#8 = 0x07#8

/-- R81. -/
def Obligations.CrcOfASequence : Prop :=
  crc8 [] = 0x00#8 ∧ (∀ bs b, crc8 (bs ++ [b]) = crc8Step (crc8 bs) b) ∧
  (∀ n, crc8 (List.replicate n 0x00#8) = 0x00#8) ∧
  crc8 [0x31#8, 0x32#8, 0x33#8, 0x34#8, 0x35#8, 0x36#8, 0x37#8, 0x38#8, 0x39#8] = 0xF4#8

/-- R82: `crc8` is the remainder of polynomial division over GF(2). -/
def Obligations.CrcIsThePolynomialRemainder : Prop :=
  ∀ bs : List Byte,
    (∑ i ∈ Finset.range 8, if (crc8 bs).getLsbD i then (Polynomial.X : Polynomial (ZMod 2)) ^ i else 0) =
      Polynomial.modByMonic
        (bs.foldl (fun M b => M * Polynomial.X ^ 8 + ∑ i ∈ Finset.range 8, if b.getLsbD i then Polynomial.X ^ i else 0)
          (0 : Polynomial (ZMod 2)) * Polynomial.X ^ 8)
        (Polynomial.X ^ 8 + Polynomial.X ^ 2 + Polynomial.X + 1)

/-- R83: linearity, leading zeros, the table form, and the table is a bijection that sends only 0 to 0. -/
def Obligations.CrcAlgebra : Prop :=
  (∀ as bs : List Byte, as.length = bs.length → crc8 (List.zipWith (· ^^^ ·) as bs) = crc8 as ^^^ crc8 bs) ∧
  (∀ bs : List Byte, crc8 (0x00#8 :: bs) = crc8 bs) ∧
  (∀ c b : Byte, crc8Step c b = crc8 [c ^^^ b]) ∧
  (Function.Bijective fun y : Byte => crc8 [y]) ∧ ∀ y : Byte, crc8 [y] = 0x00#8 ↔ y = 0x00#8

/-- R84: the residue, and the synchronizer's test in its terms. -/
def Obligations.CrcResidue : Prop :=
  (∀ bs : List Byte, crc8 (bs ++ [crc8 bs]) = 0x00#8) ∧
  (∀ (P : List Byte) (c : Byte), crc8 (P ++ [c]) = 0x00#8 ↔ c = crc8 P) ∧
  ∀ (τ : Type) (f : Frame τ), f.passes = true ↔ crc8 (vals f.toList) = 0x00#8

/-- R87: CRC_CLR, then bytes, with pushes and idle steps in between, leave `crc8` of the bytes on `crc_out`. Reserved
commands may stand in between too, of which R87 says nothing: that the run goes on past one, and that the CRC_UPDs after
it act, is the model's reading of R152 (DEDUCED, log 5, 6). -/
def Obligations.CrcPortComputesCrc : Prop :=
  (∀ (s : State) (d : Byte) (a e : Timestamp) (w : CmdWord) (ins rest : List (PortInput Timestamp)),
    decodeCommand ⟨w, a, e⟩ = .crcClr d → s.inputs = ⟨false, some ⟨w, a, e⟩⟩ :: (ins ++ rest) →
    (∀ p ∈ ins, p.rst = false ∧ ∀ d', p.instr ≠ .crcClr d') →
    ∃ t, run (ins.length + 1) s = .next t ∧ t.crcOut = crc8 (ins.filterMap PortInput.absorbed)) ∧
  State.reset.crcOut = crc8 []

/-- R73: the pseudo-instructions expand to lines that send one frame with its CRC, and that compute `crc8`. -/
def Obligations.PseudoInstructionsDoWhatTheySay : Prop :=
  (∀ (s : State) (p : Payload Timestamp) (s9 e9 : Timestamp) (rest : List (PortInput Timestamp)), s.window = [] →
    s.inputs = assemble [.frame p s9 e9] ++ rest → ∃ t, run 10 s = .next t ∧ t.window = [] ∧
      t.out = decodePayload p ++ [.checksumResult .good s9 e9] ∧ t.log = s.log ++ t.out ∧ t.inputs = rest) ∧
  ∀ (s : State) (bytes : List Byte) (rest : List (PortInput Timestamp)), s.inputs = assemble [.crc8 bytes] ++ rest →
    ∃ t, run (bytes.length + 1) s = .next t ∧ t.crcOut = crc8 bytes ∧ t.window = s.window ∧ t.log = s.log ∧
      t.inputs = rest

/-! ### The type of timestamps is an argument (00_scope.md R8) -/

/-- R8: the block takes the type of its timestamps as an argument and only copies their values. The machine behind the
interface is the block at the type `Timestamp` (log 1): its steps and its runs are those of `Block.onPort` and
`Block.run`. And a run of the block at a type `τ`, with every timestamp carried to a type `σ` by any function, is the
run of the block at `σ`: no choice of the type shows in anything but the copies. -/
def Obligations.BlockTakesAnyTimestampType : Prop :=
  (State.reset.block = Block.fresh ∧
    ∀ s t : State, step s = .next t →
      t.block = (s.block.onPort s.presented).1 ∧ t.out = (s.block.onPort s.presented).2) ∧
  (∀ (s t : State) (ins rest : List (PortInput Timestamp)), s.inputs = ins ++ rest → run ins.length s = .next t →
    t.block = (Block.run ins s.block).1 ∧ t.log = s.log ++ (Block.run ins s.block).2) ∧
  ∀ (τ σ : Type) (g : τ → σ) (ins : List (PortInput τ)) (B : Block τ),
    Block.run (ins.map (PortInput.mapTime g)) (B.mapTime g) =
      ((Block.run ins B).1.mapTime g, (Block.run ins B).2.map (DecodedRecord.mapTime g))
end

