-- ==== Sys2Proof/Laws/Crc.lean ====
section
/-! SUPPORT. The CRC's small lemmas: the empty sequence, one byte more, and what one iteration does to an exclusive or.
-/

namespace Sys2Proof.Machine

@[simp] theorem crc8_nil : crc8 [] = 0x00#8 := rfl

theorem crc8_append_singleton (bs : List Byte) (b : Byte) : crc8 (bs ++ [b]) = crc8Step (crc8 bs) b := by
  simp [crc8]

/-- An iteration is linear over exclusive or. -/
theorem crcShift_xor (a b : Byte) : crcShift (a ^^^ b) = crcShift a ^^^ crcShift b := by
  have h : ∀ x y p : Byte, (x ^^^ p) ^^^ (y ^^^ p) = x ^^^ y := by
    intro x y p
    rw [BitVec.xor_comm y p, BitVec.xor_assoc, ← BitVec.xor_assoc p p y, BitVec.xor_self, BitVec.zero_xor]
  unfold crcShift
  rw [BitVec.getLsbD_xor, BitVec.shiftLeft_xor_distrib]
  cases a.getLsbD 7 <;> cases b.getLsbD 7
  · rfl
  · exact BitVec.xor_assoc ..
  · show (a <<< 1 ^^^ b <<< 1) ^^^ crcPoly = (a <<< 1 ^^^ crcPoly) ^^^ b <<< 1
    rw [BitVec.xor_assoc, BitVec.xor_comm (b <<< 1), BitVec.xor_assoc]
  · exact (h ..).symm

theorem crcShifts_xor (n : Nat) (a b : Byte) : crcShifts n (a ^^^ b) = crcShifts n a ^^^ crcShifts n b := by
  induction n generalizing a b with
  | zero => rfl
  | succ n ih => simp only [crcShifts, crcShift_xor, ih]

@[simp] theorem crcShifts_zero (n : Nat) : crcShifts n 0x00#8 = 0x00#8 := by
  induction n with
  | zero => rfl
  | succ n ih => exact ih

end Sys2Proof.Machine
end

