-- ==== Sys2Proof/Laws/Decode.lean ====
section
/-! SUPPORT. The fields of an encoded word, and decoding by the operation selector.
-/

namespace Sys2Proof

/-- A bit of `{op, data}`: the low eight are `data`, the rest `op`. -/
theorem getLsbD_word (op : BitVec 3) (d : Byte) (i : Nat) :
    BitVec.getLsbD (w := 11) (op ++ d) i = if i < 8 then d.getLsbD i else op.getLsbD (i - 8) :=
  BitVec.getLsbD_append

@[simp] theorem opField_append (op : BitVec 3) (d : Byte) : opField (op ++ d) = op := by
  apply BitVec.eq_of_getLsbD_eq
  intro i hi
  rw [opField, BitVec.getLsbD_extractLsb', getLsbD_word]
  simp [hi]

@[simp] theorem dataField_append (op : BitVec 3) (d : Byte) : dataField (op ++ d) = d := by
  apply BitVec.eq_of_getLsbD_eq
  intro i hi
  rw [dataField, BitVec.getLsbD_extractLsb', getLsbD_word]
  simp [hi]

end Sys2Proof
end

