-- ==== Sys2Proof/Laws/Operands.lean ====
section
/-! SUPPORT. What splitting a window says: once, so that no later proof unfolds `splitTail`.
-/

namespace Sys2Proof.Machine

section
variable {τ : Type}

@[simp] theorem vals_nil : vals ([] : List (TimestampedByte τ)) = [] := rfl
@[simp] theorem vals_cons (b : TimestampedByte τ) (S : List (TimestampedByte τ)) :
    vals (b :: S) = b.value :: vals S := rfl
@[simp] theorem vals_append (S T : List (TimestampedByte τ)) : vals (S ++ T) = vals S ++ vals T := by simp [vals]
@[simp] theorem length_vals (S : List (TimestampedByte τ)) : (vals S).length = S.length := by simp [vals]

@[simp] theorem Payload.length_toList (p : Payload τ) : p.toList.length = 9 := rfl
@[simp] theorem Frame.length_toList (f : Frame τ) : f.toList.length = 10 := rfl

theorem Payload.toList_injective {p q : Payload τ} (h : p.toList = q.toList) : p = q := by
  cases p; cases q; simpa [Payload.toList] using h

theorem Frame.toList_injective {f g : Frame τ} (h : f.toList = g.toList) : f = g := by
  cases f with
  | mk p c =>
    cases g with
    | mk q d =>
      obtain ⟨hp, hc⟩ := List.append_inj' h rfl
      obtain rfl : p = q := Payload.toList_injective hp
      cases hc
      rfl

/-- Nine elements are a payload. -/
theorem exists_payload {S : List (TimestampedByte τ)} (h : S.length = 9) : ∃ p : Payload τ, p.toList = S := by
  match S, h with
  | [p0, p1, p2, p3, p4, p5, p6, p7, p8], _ => exact ⟨⟨p0, p1, p2, p3, p4, p5, p6, p7, p8⟩, rfl⟩

/-- A lead-in and ten elements split into themselves. -/
@[simp] theorem splitTail_append (bad : List (TimestampedByte τ)) (f : Frame τ) :
    splitTail (bad ++ f.toList) = some (bad, f) := by
  simp [splitTail, Frame.toList, Payload.toList]

/-- What a split says. -/
theorem splitTail_eq_some {W bad : List (TimestampedByte τ)} {f : Frame τ} (h : splitTail W = some (bad, f)) :
    W = bad ++ f.toList := by
  unfold splitTail at h
  split at h
  · rename_i hr
    simp only [Option.some.injEq, Prod.mk.injEq] at h
    obtain ⟨rfl, rfl⟩ := h
    have := congrArg List.reverse hr
    simpa [Frame.toList, Payload.toList] using this
  · cases h

/-- Ten elements or more split. -/
theorem exists_split {W : List (TimestampedByte τ)} (h : 10 ≤ W.length) : ∃ bad f, W = bad ++ Frame.toList f := by
  have hl : (W.drop (W.length - 10)).length = 10 := by simp; omega
  obtain ⟨p, hp⟩ := exists_payload (S := (W.drop (W.length - 10)).take 9) (by simp; omega)
  have hne : (W.drop (W.length - 10)).drop 9 ≠ [] := by
    intro hnil
    have := congrArg List.length hnil
    simp only [List.length_drop, List.length_nil] at this hl
    omega
  obtain ⟨c, rest, hc⟩ := List.exists_cons_of_ne_nil hne
  have hrest : rest = [] := by
    have := congrArg List.length hc
    simp only [List.length_drop, List.length_cons] at this hl
    exact List.eq_nil_of_length_eq_zero (by omega)
  refine ⟨W.take (W.length - 10), ⟨p, c⟩, ?_⟩
  have h9 : W.drop (W.length - 10) = p.toList ++ [c] := by
    rw [hp, ← hrest, ← hc, List.take_append_drop]
  simp only [Frame.toList]
  rw [← h9, List.take_append_drop]

/-- Fewer than ten elements do not split. -/
theorem splitTail_eq_none {W : List (TimestampedByte τ)} : splitTail W = none ↔ W.length < 10 := by
  constructor
  · intro h
    by_contra hn
    obtain ⟨bad, f, rfl⟩ := exists_split (Nat.le_of_not_lt hn)
    simp at h
  · intro h
    cases hs : splitTail W with
    | none => rfl
    | some r =>
      have := congrArg List.length (splitTail_eq_some (bad := r.1) (f := r.2) hs)
      simp at this
      omega

theorem Frame.passes_iff (f : Frame τ) : f.passes = true ↔ crc8 (vals f.payload.toList) = f.crcByte.value := by
  simp [Frame.passes]

/-- Everything `process` can do (R100): still accumulating, a mismatch, a match. -/
theorem process_cases (W : List (TimestampedByte τ)) (b : TimestampedByte τ) :
    (W.length + 1 < 10 ∧ process W b = (W ++ [b], [])) ∨
    (∃ bad f, W ++ [b] = bad ++ Frame.toList f ∧ f.passes = false ∧ process W b = (W ++ [b], [])) ∨
    (∃ bad f, W ++ [b] = bad ++ Frame.toList f ∧ f.passes = true ∧ process W b = ([], frameRecords bad f)) := by
  unfold process
  cases hs : splitTail (W ++ [b]) with
  | none =>
    have := splitTail_eq_none.mp hs
    exact .inl ⟨by simpa using this, rfl⟩
  | some r =>
    obtain ⟨bad, f⟩ := r
    have hW := splitTail_eq_some hs
    cases hp : f.passes with
    | false => exact .inr (.inl ⟨bad, f, hW, hp, by simp [hp]⟩)
    | true => exact .inr (.inr ⟨bad, f, hW, hp, by simp [hp]⟩)

/-- `process` on a window that ends one byte short of the frame `f`. -/
theorem process_of_split {W bad : List (TimestampedByte τ)} {b : TimestampedByte τ} {f : Frame τ}
    (h : W ++ [b] = bad ++ f.toList) :
    process W b = if f.passes then ([], frameRecords bad f) else (W ++ [b], []) := by
  simp [process, h]

/-- `process` while still accumulating (R102). -/
theorem process_of_short {W : List (TimestampedByte τ)} (b : TimestampedByte τ) (h : W.length + 1 < 10) :
    process W b = (W ++ [b], []) := by
  have : splitTail (W ++ [b]) = none := splitTail_eq_none.mpr (by simpa using h)
  simp [process, this]

/-- The index form of R100 step 3 on a window that ends in the frame `f`: candidate and crcByte. -/
theorem slice_of_frame (bad : List (TimestampedByte τ)) (f : Frame τ) :
    slice (bad ++ f.toList) ((bad ++ f.toList).length - 10) ((bad ++ f.toList).length - 2) = f.payload.toList ∧
      (bad ++ f.toList)[(bad ++ f.toList).length - 1]? = some f.crcByte := by
  constructor
  · have hj : bad.length + 10 - 2 + 1 = bad.length + 9 := by omega
    have hi : bad.length + 10 - 10 = bad.length := by omega
    simp only [slice, List.length_append, Frame.length_toList, hi, hj]
    rw [List.take_append, List.drop_append]
    simp [Frame.toList, Payload.toList]
  · have hi : bad.length + 10 - 1 - bad.length = 9 := by omega
    simp only [List.length_append, Frame.length_toList]
    rw [List.getElem?_append_right (by omega), hi]
    rfl

/-- The BadSpan of a lead-in: none for an empty one, else its first start and its last end (R105). -/
theorem badSpanOf_cases (bad : List (TimestampedByte τ)) :
    (bad = [] ∧ badSpanOf bad = []) ∨
    ∃ first last, bad.head? = some first ∧ bad.getLast? = some last ∧
      badSpanOf bad = [.badSpan first.startTime last.endTime] := by
  cases bad with
  | nil => exact .inl ⟨rfl, rfl⟩
  | cons x xs =>
    refine .inr ⟨x, xs.getLastD x, rfl, ?_, rfl⟩
    rw [List.getLastD_eq_getLast?]
    exact List.getLast?_cons

end

end Sys2Proof.Machine
end

