-- ==== Sys2Proof/Laws/State.lean ====
section
/-! SUPPORT. One lemma per field and operation on the block and on the state, so that no later proof unfolds a record
update.
-/

namespace Sys2Proof.Machine

section
variable {τ : Type} (B : Block τ) (b : TimestampedByte τ) (v : Byte)

@[simp] theorem Block.idle_window : B.idle.1.window = B.window := rfl
@[simp] theorem Block.idle_acc : B.idle.1.acc = B.acc := rfl
@[simp] theorem Block.idle_refused : B.idle.1.refused = B.refused := rfl
@[simp] theorem Block.idle_records : B.idle.2 = [] := rfl

@[simp] theorem Block.push_window : (B.push b).1.window = (process B.window b).1 := rfl
@[simp] theorem Block.push_acc : (B.push b).1.acc = B.acc := rfl
@[simp] theorem Block.push_refused : (B.push b).1.refused = B.refused := rfl
@[simp] theorem Block.push_records : (B.push b).2 = (process B.window b).2 := rfl

@[simp] theorem Block.crcClr_window : B.crcClr.1.window = B.window := rfl
@[simp] theorem Block.crcClr_acc : B.crcClr.1.acc = crcInit := rfl
@[simp] theorem Block.crcClr_refused : B.crcClr.1.refused = B.refused := rfl
@[simp] theorem Block.crcClr_records : B.crcClr.2 = [] := rfl

@[simp] theorem Block.crcUpd_window : (B.crcUpd v).1.window = B.window := rfl
@[simp] theorem Block.crcUpd_acc : (B.crcUpd v).1.acc = crc8Step B.acc v := rfl
@[simp] theorem Block.crcUpd_refused : (B.crcUpd v).1.refused = B.refused := rfl
@[simp] theorem Block.crcUpd_records : (B.crcUpd v).2 = [] := rfl

@[simp] theorem Block.refuse_window : B.refuse.1.window = B.window := rfl
@[simp] theorem Block.refuse_acc : B.refuse.1.acc = B.acc := rfl
@[simp] theorem Block.refuse_refused : B.refuse.1.refused = true := rfl
@[simp] theorem Block.refuse_records : B.refuse.2 = [] := rfl

@[simp] theorem Block.reset_window : B.reset.1.window = [] := rfl
@[simp] theorem Block.reset_acc : B.reset.1.acc = crcInit := rfl
@[simp] theorem Block.reset_refused : B.reset.1.refused = B.refused := rfl
@[simp] theorem Block.reset_records : B.reset.2 = [] := rfl

@[simp] theorem Block.onPort_rst (c : Option (Command τ)) : B.onPort ⟨true, c⟩ = B.reset := rfl
@[simp] theorem Block.onPort_none : B.onPort ⟨false, none⟩ = B.idle := rfl
@[simp] theorem Block.onPort_some (c : Command τ) : B.onPort ⟨false, some c⟩ = B.onCommand c := rfl
@[simp] theorem Block.run_nil : Block.run [] B = (B, []) := rfl
theorem Block.run_cons (p : PortInput τ) (ps : List (PortInput τ)) :
    Block.run (p :: ps) B =
      ((Block.run ps (B.onPort p).1).1, (B.onPort p).2 ++ (Block.run ps (B.onPort p).1).2) := rfl
end

section
variable (s : State) (f : Block Timestamp → Block Timestamp × List (DecodedRecord Timestamp))

@[simp] theorem State.block_window : s.block.window = s.window := rfl
@[simp] theorem State.block_acc : s.block.acc = s.acc := rfl
@[simp] theorem State.block_refused : s.block.refused = s.refused := rfl

@[simp] theorem State.perform_block : (s.perform f).block = (f s.block).1 := rfl
@[simp] theorem State.perform_window : (s.perform f).window = (f s.block).1.window := rfl
@[simp] theorem State.perform_acc : (s.perform f).acc = (f s.block).1.acc := rfl
@[simp] theorem State.perform_refused : (s.perform f).refused = (f s.block).1.refused := rfl
@[simp] theorem State.perform_inputs : (s.perform f).inputs = s.inputs := rfl
@[simp] theorem State.perform_out : (s.perform f).out = (f s.block).2 := rfl
@[simp] theorem State.perform_log : (s.perform f).log = s.log ++ (f s.block).2 := rfl
@[simp] theorem State.perform_freeCount : (s.perform f).freeCount = s.freeCount + 1 := rfl

@[simp] theorem State.applyReset_block : s.applyReset.block = s.block.reset.1 := rfl
@[simp] theorem State.applyReset_window : s.applyReset.window = [] := rfl
@[simp] theorem State.applyReset_acc : s.applyReset.acc = crcInit := rfl
@[simp] theorem State.applyReset_refused : s.applyReset.refused = s.refused := rfl
@[simp] theorem State.applyReset_inputs : s.applyReset.inputs = s.inputs := rfl
@[simp] theorem State.applyReset_out : s.applyReset.out = [] := rfl
@[simp] theorem State.applyReset_log : s.applyReset.log = s.log := by simp [State.applyReset]
@[simp] theorem State.applyReset_freeCount : s.applyReset.freeCount = s.freeCount + 1 := rfl

@[simp] theorem State.taken_block : s.taken.block = s.block := rfl
@[simp] theorem State.taken_window : s.taken.window = s.window := rfl
@[simp] theorem State.taken_acc : s.taken.acc = s.acc := rfl
@[simp] theorem State.taken_refused : s.taken.refused = s.refused := rfl
@[simp] theorem State.taken_inputs : s.taken.inputs = s.inputs.tail := rfl
@[simp] theorem State.taken_out : s.taken.out = s.out := rfl
@[simp] theorem State.taken_log : s.taken.log = s.log := rfl
@[simp] theorem State.taken_freeCount : s.taken.freeCount = s.freeCount := rfl

/-- The reset state holds a fresh block. -/
@[simp] theorem State.reset_block : State.reset.block = Block.fresh := rfl
end

/-- The closed machine's commands: `onCommand` at the type `Timestamp`, in terms of the decoded instruction. -/
theorem Block.onCommand_of_decode (c : Command Timestamp) (B : Block Timestamp) :
    B.onCommand c =
      match decodeCommand c with
      | .nop _ => B.idle
      | .push value tsStart tsEnd => B.push (timestampedByte value tsStart tsEnd)
      | .crcClr _ => B.crcClr
      | .crcUpd data => B.crcUpd data
      | .reserved010 _ => B.refuse
      | .reserved011 _ => B.refuse
      | .reserved110 _ => B.refuse
      | .reserved111 _ => B.refuse := by
  unfold Block.onCommand decodeCommand
  cases c.word.getLsbD 10 <;> cases c.word.getLsbD 9 <;> cases c.word.getLsbD 8 <;> rfl

theorem State.presented_nil {s : State} (h : s.inputs = []) : s.presented = idleInput := by
  simp [State.presented, h]

theorem State.presented_cons {s : State} {p : PortInput Timestamp} {rest : List (PortInput Timestamp)}
    (h : s.inputs = p :: rest) : s.presented = p := by
  simp [State.presented, h]

end Sys2Proof.Machine
end

