-- ==== Sys2Proof/Laws/Flags.lean ====
section
/-! SUPPORT. The result bundle of a step without records and of a step with a frame's records.
-/

namespace Sys2Proof.Machine

section
variable (s : State)

theorem bundle_of_no_records {s : State} (h : s.out = []) : s.bundle = undrivenBundle s.freeCount := by
  simp [State.bundle, h]

@[simp] theorem bundle_idle : (s.perform Block.idle).bundle = undrivenBundle (s.freeCount + 1) :=
  bundle_of_no_records rfl
@[simp] theorem bundle_crcClr : (s.perform Block.crcClr).bundle = undrivenBundle (s.freeCount + 1) :=
  bundle_of_no_records rfl
@[simp] theorem bundle_crcUpd (v : Byte) : (s.perform (Block.crcUpd v)).bundle = undrivenBundle (s.freeCount + 1) :=
  bundle_of_no_records rfl
@[simp] theorem bundle_refuse : (s.perform Block.refuse).bundle = undrivenBundle (s.freeCount + 1) :=
  bundle_of_no_records rfl
@[simp] theorem bundle_applyReset : s.applyReset.bundle = undrivenBundle (s.freeCount + 1) := bundle_of_no_records rfl

@[simp] theorem undrivenBundle_resValid (n : Nat) : (undrivenBundle n).resValid = false := rfl
@[simp] theorem undrivenBundle_badValid (n : Nat) : (undrivenBundle n).badValid = false := rfl
@[simp] theorem undrivenBundle_records (n : Nat) : (undrivenBundle n).records = [] := by simp [ResultBundle.records]
end

/-- A bundle whose `res_valid` is 0 stands for no records (R68). -/
theorem records_of_not_resValid {τ : Type} {w : ResultBundle τ} (h : w.resValid = false) : w.records = [] := by
  simp [ResultBundle.records, h]

/-- What the bundle shows in the step that confirms a frame. -/
theorem bundle_of_frame {s : State} {bad : List (TimestampedByte Timestamp)} {f : Frame Timestamp}
    (h : s.out = frameRecords bad f) :
    s.bundle.resValid = true ∧ (s.bundle.badValid = true ↔ bad ≠ []) ∧ s.bundle.records = s.out := by
  cases bad <;>
    simp [State.bundle, h, frameRecords, badSpanOf, decodePayload, decodeTemperature, decodeVoltage, decodeCurrent,
      decodeConsumption, decodeRpm, checksumGood, driveSlot, undrivenBundle, ResultBundle.records]

end Sys2Proof.Machine
end

