-- ==== Sys2Proof/Laws/PerInstr.lean ====
section
/-! SUPPORT. A family of statements with one lemma per constructor: the two fields of an encoded instruction are its
operation selector (R61) and its data bits (R62).
-/

namespace Sys2Proof.Laws.OpField

/-- `op` and `data` of the word of `i`. -/
def Statement (i : Instr) : Prop := opField (encodeWord i) = i.op ∧ dataField (encodeWord i) = i.data

theorem nop (d : Byte) : Statement (.nop d) := ⟨opField_append _ _, dataField_append _ _⟩
theorem push (v : Byte) (a e : Timestamp) : Statement (.push v a e) := ⟨opField_append _ _, dataField_append _ _⟩
theorem reserved010 (d : Byte) : Statement (.reserved010 d) := ⟨opField_append _ _, dataField_append _ _⟩
theorem reserved011 (d : Byte) : Statement (.reserved011 d) := ⟨opField_append _ _, dataField_append _ _⟩
theorem crcClr (d : Byte) : Statement (.crcClr d) := ⟨opField_append _ _, dataField_append _ _⟩
theorem crcUpd (d : Byte) : Statement (.crcUpd d) := ⟨opField_append _ _, dataField_append _ _⟩
theorem reserved110 (d : Byte) : Statement (.reserved110 d) := ⟨opField_append _ _, dataField_append _ _⟩
theorem reserved111 (d : Byte) : Statement (.reserved111 d) := ⟨opField_append _ _, dataField_append _ _⟩

end Sys2Proof.Laws.OpField
end

