-- ==== Sys2Proof/Laws/Step.lean ====
section
/-! SUPPORT. What each meaning, one step and a run of steps answer, said once; later proofs cite these and unfold no
meaning.
-/

namespace Sys2Proof.Machine

section
variable (s : State)

theorem exec_nop (d : Byte) : exec (.nop d) s = .next (s.perform Block.idle) := rfl

theorem exec_push (v : Byte) (a e : Timestamp) :
    exec (.push v a e) s = .next (s.perform (Block.push (timestampedByte v a e))) := rfl

theorem exec_crcClr (d : Byte) : exec (.crcClr d) s = .next (s.perform Block.crcClr) := rfl

theorem exec_crcUpd (d : Byte) : exec (.crcUpd d) s = .next (s.perform (Block.crcUpd d)) := rfl

theorem exec_reserved010 (d : Byte) : exec (.reserved010 d) s = .next (s.perform Block.refuse) := rfl
theorem exec_reserved011 (d : Byte) : exec (.reserved011 d) s = .next (s.perform Block.refuse) := rfl
theorem exec_reserved110 (d : Byte) : exec (.reserved110 d) s = .next (s.perform Block.refuse) := rfl
theorem exec_reserved111 (d : Byte) : exec (.reserved111 d) s = .next (s.perform Block.refuse) := rfl
end

/-- Everything a command can do. -/
theorem exec_cases {i : Instr} {s t : State} (h : exec i s = .next t) :
    ((∃ d, i = .nop d) ∧ t = s.perform Block.idle) ∨
    (∃ v a e, i = .push v a e ∧ t = s.perform (Block.push (timestampedByte v a e))) ∨
    ((∃ d, i = .crcClr d) ∧ t = s.perform Block.crcClr) ∨
    (∃ d, i = .crcUpd d ∧ t = s.perform (Block.crcUpd d)) ∨
    (i.isReserved = true ∧ t = s.perform Block.refuse) := by
  cases i with
  | nop d => exact .inl ⟨⟨d, rfl⟩, by rw [exec_nop] at h; cases h; rfl⟩
  | push v a e => exact .inr (.inl ⟨v, a, e, rfl, by rw [exec_push] at h; cases h; rfl⟩)
  | crcClr d => exact .inr (.inr (.inl ⟨⟨d, rfl⟩, by rw [exec_crcClr] at h; cases h; rfl⟩))
  | crcUpd d => exact .inr (.inr (.inr (.inl ⟨d, rfl, by rw [exec_crcUpd] at h; cases h; rfl⟩)))
  | reserved010 d => exact .inr (.inr (.inr (.inr ⟨rfl, by rw [exec_reserved010] at h; cases h; rfl⟩)))
  | reserved011 d => exact .inr (.inr (.inr (.inr ⟨rfl, by rw [exec_reserved011] at h; cases h; rfl⟩)))
  | reserved110 d => exact .inr (.inr (.inr (.inr ⟨rfl, by rw [exec_reserved110] at h; cases h; rfl⟩)))
  | reserved111 d => exact .inr (.inr (.inr (.inr ⟨rfl, by rw [exec_reserved111] at h; cases h; rfl⟩)))

/-- Everything a step can do: the reset event, or the presented command. -/
theorem step_cases {s t : State} (h : step s = .next t) :
    (s.presented.rst = true ∧ t = s.taken.applyReset) ∨
    (s.presented.rst = false ∧ exec s.presented.instr s.taken = .next t) := by
  unfold step stepPort at h
  cases hr : s.presented.rst with
  | true =>
    rw [hr] at h
    cases h
    exact .inl ⟨rfl, rfl⟩
  | false => exact .inr ⟨rfl, by simpa [hr] using h⟩

/-- A step with port values `p` presented. -/
theorem step_of_cons {s : State} {p : PortInput Timestamp} {rest : List (PortInput Timestamp)}
    (h : s.inputs = p :: rest) :
    step s = stepPort p { s with inputs := rest } := by
  simp [step, State.presented, State.taken, h]

/-- A step past the end of the list. -/
theorem step_of_nil {s : State} (h : s.inputs = []) : step s = stepPort idleInput s := by
  have ht : s.taken = s := by
    cases s
    simp only at h
    subst h
    rfl
  rw [step, State.presented_nil h, ht]

@[simp] theorem run_zero (s : State) : run 0 s = .next s := rfl

/-- One step, then the rest. -/
theorem run_succ_of_step {s t : State} (h : step s = .next t) (k : Nat) : run (k + 1) s = run k t := by
  have hs : Sys2Proof.core.step s = .next t := h
  simp only [run, Host.Core.run, hs]
  rfl

/-- A run in two parts. -/
theorem run_add_of_run {s u : State} {k : Nat} (h : run k s = .next u) (m : Nat) : run (k + m) s = run m u := by
  induction k generalizing s with
  | zero =>
    cases h
    rw [Nat.zero_add]
  | succ k ih =>
    cases hs : step s with
    | next t =>
      rw [run_succ_of_step hs] at h
      rw [Nat.add_right_comm, run_succ_of_step hs, ih h]
    | fault r => cases r
    | refused r =>
      have hr : Sys2Proof.core.step s = .refused r := hs
      simp [run, Host.Core.run, hr] at h

end Sys2Proof.Machine
end

