-- ==== Sys2Proof/Tests/Slice0.lean ====
section
/-! SUPPORT. Tests of the model against the spec's own words, and for each statement with hypotheses a witness that
meets them. Expected values are those of 95_test_vectors.md (its vector is named) or are read off the rule named.
-/

namespace Sys2Proof.Tests

open Sys2Proof.Machine

/-- The next state, where there is one. -/
def nextOf (o : Host.Outcome State Fault Refusal) : Option State :=
  match o with
  | .next s => some s
  | .fault _ => none
  | .refused _ => none

/-- Bytes with the timestamps of 95_test_vectors.md from the `n`-th PUSH on: `10*i` to `10*i + 9`. -/
def stamped (n : Nat) : List Byte → List (TimestampedByte Timestamp)
  | [] => []
  | b :: bs => ⟨b, ⟨10 * n⟩, ⟨10 * n + 9⟩⟩ :: stamped (n + 1) bs

/-- A block with the window `W` and nothing else since reset. -/
def withWindow (W : List (TimestampedByte Timestamp)) : State := { State.reset with window := W }

/-- A block to which the host presents `ins`. -/
def withInputs (ins : List (PortInput Timestamp)) : State := { State.reset with inputs := ins }

/-- The payload of the §8 example frame `F` (95_test_vectors.md §3). -/
def exampleBytes : List Byte := [0x19#8, 0x30#8, 0x39#8, 0x00#8, 0x64#8, 0x00#8, 0x0A#8, 0x04#8, 0x10#8]

/-- The ten bytes of `F` from the `n`-th PUSH on. -/
def exampleFrame (n : Nat) : Frame Timestamp :=
  { payload :=
      { p0 := ⟨0x19#8, ⟨10 * n⟩, ⟨10 * n + 9⟩⟩, p1 := ⟨0x30#8, ⟨10 * n + 10⟩, ⟨10 * n + 19⟩⟩,
        p2 := ⟨0x39#8, ⟨10 * n + 20⟩, ⟨10 * n + 29⟩⟩, p3 := ⟨0x00#8, ⟨10 * n + 30⟩, ⟨10 * n + 39⟩⟩,
        p4 := ⟨0x64#8, ⟨10 * n + 40⟩, ⟨10 * n + 49⟩⟩, p5 := ⟨0x00#8, ⟨10 * n + 50⟩, ⟨10 * n + 59⟩⟩,
        p6 := ⟨0x0A#8, ⟨10 * n + 60⟩, ⟨10 * n + 69⟩⟩, p7 := ⟨0x04#8, ⟨10 * n + 70⟩, ⟨10 * n + 79⟩⟩,
        p8 := ⟨0x10#8, ⟨10 * n + 80⟩, ⟨10 * n + 89⟩⟩ },
    crcByte := ⟨0xA3#8, ⟨10 * n + 90⟩, ⟨10 * n + 99⟩⟩ }

/-- Ten zero bytes (S-6). -/
def zeroFrame : Frame Timestamp :=
  { payload := { p0 := ⟨0#8, ⟨0⟩, ⟨9⟩⟩, p1 := ⟨0#8, ⟨10⟩, ⟨19⟩⟩, p2 := ⟨0#8, ⟨20⟩, ⟨29⟩⟩, p3 := ⟨0#8, ⟨30⟩, ⟨39⟩⟩,
                 p4 := ⟨0#8, ⟨40⟩, ⟨49⟩⟩,
                 p5 := ⟨0#8, ⟨50⟩, ⟨59⟩⟩, p6 := ⟨0#8, ⟨60⟩, ⟨69⟩⟩, p7 := ⟨0#8, ⟨70⟩, ⟨79⟩⟩, p8 := ⟨0#8, ⟨80⟩, ⟨89⟩⟩ },
    crcByte := ⟨0#8, ⟨90⟩, ⟨99⟩⟩ }

/-! ### WellFormed: each check refuses an ill-formed term -/

theorem smoke_start_too_wide : ¬ (Instr.push 0x00#8 ⟨2 ^ Config.tsw⟩ ⟨0⟩).WellFormed := by
  simp [Instr.WellFormed, Instr.fitsWidth]

theorem smoke_end_too_wide : ¬ (Instr.push 0x00#8 ⟨0⟩ ⟨2 ^ Config.tsw⟩).WellFormed := by
  simp [Instr.WellFormed, Instr.fitsWidth]

theorem smoke_widths_at_eight_lines :
    (Instr.push 0x00#8 ⟨256⟩ ⟨0⟩).fitsWidth 8 = false ∧ (Instr.push 0x00#8 ⟨0⟩ ⟨256⟩).fitsWidth 8 = false ∧
    (Instr.push 0xFF#8 ⟨255⟩ ⟨255⟩).fitsWidth 8 = true := by decide

theorem smoke_well_formed : (Instr.push 0xFF#8 ⟨0⟩ ⟨0⟩).WellFormed ∧ (Instr.crcUpd 0xFF#8).WellFormed := by
  simp [Instr.WellFormed, Instr.fitsWidth]

/-! ### Decoding: words written out from R61 (bits `op`, then `data`) -/

theorem test_decode_nop : decodeTableWord 16 0b000_00000000 = some (.nop 0x00#8) := by decide
theorem test_decode_push : decodeTableWord 16 0b001_00011001 = some (.push 0x19#8 ⟨0⟩ ⟨0⟩) := by decide
theorem test_decode_reserved010 : decodeTableWord 16 0b010_10101011 = some (.reserved010 0xAB#8) := by decide
theorem test_decode_reserved011 : decodeTableWord 16 0b011_00000001 = some (.reserved011 0x01#8) := by decide
theorem test_decode_crcClr : decodeTableWord 11 0b100_11111111 = some (.crcClr 0xFF#8) := by decide
theorem test_decode_crcUpd : decodeTableWord 11 0b101_00110000 = some (.crcUpd 0x30#8) := by decide
theorem test_decode_reserved110 : decodeTableWord 16 0b110_00000000 = some (.reserved110 0x00#8) := by decide
theorem test_decode_reserved111 : decodeTableWord 16 0b111_11111111 = some (.reserved111 0xFF#8) := by decide
theorem test_decode_no_twelfth_bit : decodeTableWord 16 0b1000_00000000 = none := by decide
theorem test_encode_words :
    (encode (.push 0x19#8 ⟨3⟩ ⟨4⟩)) = ⟨0x119#11, ⟨3⟩, ⟨4⟩⟩ ∧ encodeWord (.crcClr 0x00#8) = 0x400#11 ∧
    encodeWord (.crcUpd 0x02#8) = 0x502#11 := by decide

/-! ### One step of each instruction -/

/-- S-2 with F[0..8] already in the window: the tenth PUSH. -/
theorem test_push_match :
    (nextOf (exec (.push 0xA3#8 ⟨90⟩ ⟨99⟩) (withWindow (stamped 0 exampleBytes)))).map (fun t => (t.window, t.out)) =
      some ([], [.temperature 25#8 ⟨0⟩ ⟨9⟩, .voltage 123450#32 ⟨10⟩ ⟨29⟩, .current 1000#32 ⟨30⟩ ⟨49⟩,
        .consumption 100#32 ⟨50⟩ ⟨69⟩, .rpm 10400#32 ⟨70⟩ ⟨89⟩, .checksumResult .good ⟨90⟩ ⟨99⟩]) := by decide +kernel

/-- S-4 with 0xAA and F[0..8] already in the window: the BadSpan of one element comes first. -/
theorem test_push_match_after_noise :
    (nextOf (exec (.push 0xA3#8 ⟨100⟩ ⟨109⟩) (withWindow (stamped 0 (0xAA#8 :: exampleBytes))))).map
      (fun t => (t.window, t.out.head?, t.out.length)) = some ([], some (.badSpan ⟨0⟩ ⟨9⟩), 7) := by decide +kernel

/-- R110: `|W| = 9` stays 9. -/
theorem test_nop_keeps_nine :
    (nextOf (exec (.nop 0x00#8) (withWindow (stamped 0 exampleBytes)))).map (fun t => (t.window.length, t.winLenAt 8, t.out)) =
      some (9, 9, []) := by decide +kernel

/-- C-21. -/
theorem test_crcClr :
    (nextOf (exec (.crcClr 0x00#8) { State.reset with acc := 0xF4#8 })).map (fun t => (t.crcOut, t.out)) =
      some (0x00#8, []) := by decide +kernel

/-- C-22. -/
theorem test_crcUpd_example :
    (nextOf (exec (.crcUpd 0x02#8) { State.reset with acc := 0x07#8 })).map State.crcOut = some 0x1B#8 := by decide +kernel

/-- C-2: the polynomial is added after the shift, from bit 7 down. -/
theorem test_crcUpd_high_bit :
    (nextOf (exec (.crcUpd 0x80#8) State.reset)).map State.crcOut = some 0x89#8 := by decide +kernel

/-- P5, line 14: `W` and `acc` as they were. -/
theorem test_reserved010 :
    (nextOf (step ((withWindow (stamped 0 [0x11#8])).withFetchWord 16 0x2AB))).map
      (fun t => (t.refused, t.window, t.acc, t.out)) = some (true, stamped 0 [0x11#8], 0x00#8, []) := by decide +kernel

theorem test_reserved011 : (nextOf (step (State.reset.withFetchWord 16 0x300))).map State.refused = some true := by decide
theorem test_reserved110 : (nextOf (step (State.reset.withFetchWord 16 0x600))).map State.refused = some true := by decide
theorem test_reserved111 : (nextOf (step (State.reset.withFetchWord 16 0x7FF))).map State.refused = some true := by decide

/-- P5, line 3: the two bytes are discarded with no record. R178: the command beside `rst` is discarded. -/
theorem test_reset_discards :
    (nextOf (step { withWindow (stamped 0 [0x11#8, 0x22#8]) with inputs := [⟨true, some ⟨0x2AB#11, ⟨0⟩, ⟨0⟩⟩⟩] })).map
      (fun t => (t.window, t.out, t.refused)) = some ([], [], false) := by decide +kernel

/-- C-14, C-17, C-18. -/
theorem test_crc8 :
    crc8 (List.replicate 9 0xFF#8) = 0xD8#8 ∧ crc8 exampleBytes = 0xA3#8 ∧
    crc8 [0x31#8, 0x32#8, 0x33#8, 0x34#8, 0x35#8, 0x36#8, 0x37#8, 0x38#8, 0x39#8] = 0xF4#8 := by decide +kernel

/-- S-10: `|W| = 1000` reads 255 on 8 lines and 1000 on 16. -/
theorem test_winLen_saturates :
    (withWindow (List.replicate 1000 ⟨0x01#8, ⟨0⟩, ⟨0⟩⟩)).winLenAt 8 = 255 ∧
    (withWindow (List.replicate 1000 ⟨0x01#8, ⟨0⟩, ⟨0⟩⟩)).winLenAt 16 = 1000 := by decide +kernel

/-- P1's serial log begins so. -/
theorem test_serial : (DecodedRecord.temperature 25#8 (⟨0⟩ : Timestamp) ⟨9⟩).serial = ⟨0#3, 25#32, ⟨0⟩, ⟨9⟩⟩ ∧
    (DecodedRecord.checksumResult .good (⟨90⟩ : Timestamp) ⟨99⟩).serial = ⟨5#3, 0#32, ⟨90⟩, ⟨99⟩⟩ := by decide

/-- R72: `PUSH 0x19, 0, 9` and a comment. -/
theorem test_parse_push :
    parseLine ['P', 'U', 'S', 'H', ' ', '0', 'x', '1', '9', ',', ' ', '0', ',', ' ', '9', ' ', ';', ' ', 'a'] =
      some [.line (.push 0x19#8 ⟨0⟩ ⟨9⟩)] := by decide +kernel

/-- R72: `v` is at most 255. -/
theorem test_parse_crcUpd_range :
    parseLine ['C', 'R', 'C', '_', 'U', 'P', 'D', ' ', '2', '5', '5'] = some [.line (.crcUpd 0xFF#8)] ∧
    parseLine ['C', 'R', 'C', '_', 'U', 'P', 'D', ' ', '2', '5', '6'] = none := by decide +kernel

/-- S-2's tenth PUSH on the block at another type of timestamps, eight-bit words: the hardware form with `TSW = 8`. -/
theorem test_block_at_eight_bit_timestamps :
    Block.onPort ⟨false, some ⟨0x1A3#11, 90#8, 99#8⟩⟩
      { (Block.fresh : Block Byte) with
        window := (stamped 0 exampleBytes).map (TimestampedByte.mapTime fun x => BitVec.ofNat 8 x.index) } =
      (Block.fresh, [.temperature 25#8 0#8 9#8, .voltage 123450#32 10#8 29#8, .current 1000#32 30#8 49#8,
        .consumption 100#32 50#8 69#8, .rpm 10400#32 70#8 89#8, .checksumResult .good 90#8 99#8]) := by decide +kernel

/-! ### Witnesses: for each statement with hypotheses, values that meet all of them -/

/-- One word for each of the eight clauses, at the ends of the range of `data`. -/
theorem witness_OpFieldSelectsTheOperation :
    (0x000#11 : CmdWord).toNat = 256 * 0 + 0 ∧ (0x1FF#11 : CmdWord).toNat = 256 * 1 + 255 ∧
    (0x200#11 : CmdWord).toNat = 256 * 2 + 0 ∧ (0x3FF#11 : CmdWord).toNat = 256 * 3 + 255 ∧
    (0x400#11 : CmdWord).toNat = 256 * 4 + 0 ∧ (0x5FF#11 : CmdWord).toNat = 256 * 5 + 255 ∧
    (0x600#11 : CmdWord).toNat = 256 * 6 + 0 ∧ (0x7FF#11 : CmdWord).toNat = 256 * 7 + 255 := by decide

theorem witness_EncodeOfDecodeIsTheWord :
    decodeBytes [0xFF#8, 0x07#8, 0x01#8] ⟨0⟩ ⟨0⟩ = .ok (.reserved111 0xFF#8, [0x01#8]) := by decide

theorem witness_OpcodeTableRowsPartitionTheWords :
    ∃ r ∈ opcodeTable, r.holds 0x7FF#11 = true ∧ r.mnemonic = "RESERVED_111" := by decide

theorem witness_SerialFormCarriesTheSameInformation :
    (⟨0#3, 255#32, ⟨1⟩, ⟨2⟩⟩ : SerialRecord Timestamp).record = some (.temperature 255#8 ⟨1⟩ ⟨2⟩) ∧
    (⟨0#3, 256#32, ⟨1⟩, ⟨2⟩⟩ : SerialRecord Timestamp).record = none ∧
    (⟨6#3, 0#32, ⟨1⟩, ⟨2⟩⟩ : SerialRecord Timestamp).record = some (.badSpan ⟨1⟩ ⟨2⟩) := by decide

theorem witness_StepRunsTheDecodedCommand :
    (withInputs [⟨false, some ⟨0x119#11, ⟨0⟩, ⟨9⟩⟩⟩]).inputs = [⟨false, some ⟨0x119#11, ⟨0⟩, ⟨9⟩⟩⟩] ∧
    decodeCommand ⟨0x119#11, ⟨0⟩, ⟨9⟩⟩ = .push 0x19#8 ⟨0⟩ ⟨9⟩ := by decide

theorem witness_StepWithoutCommandIsNop :
    (withInputs [⟨false, none⟩]).inputs = [⟨false, none⟩] ∧ (withInputs []).inputs = [] := by decide

theorem witness_ResetStepIsSystemStart :
    ({ withWindow (stamped 0 [0x11#8]) with inputs := [⟨true, none⟩] } : State).inputs = [⟨true, none⟩] := by decide

theorem witness_ResetDiscardsTheCommand :
    ({ withInputs [⟨true, some ⟨0x2AB#11, ⟨0⟩, ⟨0⟩⟩⟩] with inputs := [⟨true, none⟩] } : State) = withInputs [⟨true, none⟩] ∧
    (withInputs [⟨true, some ⟨0x2AB#11, ⟨0⟩, ⟨0⟩⟩⟩]).inputs = [⟨true, some ⟨0x2AB#11, ⟨0⟩, ⟨0⟩⟩⟩] := by decide

theorem witness_NopChangesNothing : (0x0FF#11 : CmdWord) &&& 0x700#11 = 0x000#11 := by decide
theorem witness_CrcClrClearsTheAccumulator : (0x4FF#11 : CmdWord) &&& 0x700#11 = 0x400#11 := by decide

theorem witness_CrcUpdAbsorbsOneByte :
    (0x53C#11 : CmdWord) &&& 0x700#11 = 0x500#11 ∧ ({ State.reset with acc := 0x07#8 } : State).acc = 0x07#8 ∧
    0x3C#8 = ({ State.reset with acc := 0x3C#8 } : State).acc := by decide

theorem witness_ReservedCommandsSetTheMark :
    ∃ s t : State, s.refused = true ∧ step s = .next t :=
  ⟨{ withInputs [⟨true, none⟩] with refused := true }, _, rfl, rfl⟩

theorem witness_MarkRisesOnlyOnReservedCommands :
    ∃ t, step (withInputs [⟨false, some ⟨0x2AB#11, ⟨0⟩, ⟨0⟩⟩⟩]) = .next t := ⟨_, rfl⟩

/-- One input for each of the four clauses. -/
theorem witness_AccWrittenOnlyByTheCrcPort :
    (withInputs [⟨true, none⟩]).presented.rst = true ∧
    (withInputs [⟨false, some ⟨0x400#11, ⟨0⟩, ⟨0⟩⟩⟩]).presented.instr = .crcClr 0x00#8 ∧
    (withInputs [⟨false, some ⟨0x5FF#11, ⟨0⟩, ⟨0⟩⟩⟩]).presented.instr = .crcUpd 0xFF#8 ∧
    (withInputs [⟨false, some ⟨0x119#11, ⟨0⟩, ⟨9⟩⟩⟩]).presented.instr = .push 0x19#8 ⟨0⟩ ⟨9⟩ ∧
    ∃ t u, exec (.push 0x19#8 ⟨0⟩ ⟨9⟩) State.reset = .next t ∧
      exec (.push 0x19#8 ⟨0⟩ ⟨9⟩) { State.reset with acc := 0x01#8 } = .next u :=
  ⟨rfl, by decide, by decide, by decide, _, _, rfl, rfl⟩

theorem witness_CrcPortLeavesTheSynchronizer : ∃ d, (Instr.crcUpd 0x01#8) = .crcClr d ∨ (Instr.crcUpd 0x01#8) = .crcUpd d :=
  ⟨0x01#8, .inr rfl⟩

/-- Eight elements, and the ninth: the last length that still accumulates. -/
theorem witness_PushWhileAccumulatingEmitsNothing :
    ((withWindow (stamped 0 (exampleBytes.take 8))).window ++
      [timestampedByte 0x10#8 (⟨80⟩ : Timestamp) ⟨89⟩]).length < 10 := by decide

/-- S-3: ten elements, the first length that is tested, with a wrong CRC byte. -/
theorem witness_PushMismatchKeepsTheWindow :
    (withWindow (stamped 0 exampleBytes)).window ++ [⟨0xA2#8, ⟨90⟩, ⟨99⟩⟩] =
      [] ++ Frame.toList { exampleFrame 0 with crcByte := ⟨0xA2#8, ⟨90⟩, ⟨99⟩⟩ } ∧
    crc8 (vals (exampleFrame 0).payload.toList) ≠ 0xA2#8 := by decide +kernel

/-- S-2, with no lead-in, and S-4, with a lead-in of one element. -/
theorem witness_PushMatchEmitsTheFrameAndClears :
    (withWindow (stamped 0 exampleBytes)).window ++ [⟨0xA3#8, ⟨90⟩, ⟨99⟩⟩] = [] ++ (exampleFrame 0).toList ∧
    (withWindow (stamped 0 (0xAA#8 :: exampleBytes))).window ++ [⟨0xA3#8, ⟨100⟩, ⟨109⟩⟩] =
      stamped 0 [0xAA#8] ++ (exampleFrame 1).toList ∧
    crc8 (vals (exampleFrame 0).payload.toList) = (exampleFrame 0).crcByte.value := by decide +kernel

/-- Ten elements, and eleven that agree with them in the last nine before the PUSH. -/
theorem witness_PushTestsOnlyTheLastTen :
    10 ≤ ((withWindow (stamped 1 exampleBytes)).window ++ [timestampedByte 0xA3#8 (⟨100⟩ : Timestamp) ⟨109⟩]).length ∧
    9 ≤ (withWindow (stamped 0 (0xAA#8 :: exampleBytes))).window.length ∧
    (stamped 0 (0xAA#8 :: exampleBytes)).drop (10 - 9) = (stamped 1 exampleBytes).drop (9 - 9) := by decide

theorem witness_PushEmitsNoneSixOrSeven :
    (nextOf (exec (.push 0xA3#8 ⟨100⟩ ⟨109⟩) (withWindow (stamped 0 (0xAA#8 :: exampleBytes))))).any
      (fun t => t.out.contains (.badSpan ⟨0⟩ ⟨9⟩)) = true := by decide +kernel

theorem witness_WindowChangesInThreeWays :
    ∃ t, step { withWindow (stamped 0 exampleBytes) with inputs := pushInputs [⟨0xA3#8, ⟨90⟩, ⟨99⟩⟩] } = .next t :=
  ⟨_, rfl⟩

/-- Nine PUSHes with a NOP and a CRC_UPD in between. -/
theorem witness_FewerThanTenPushesEmitNothing :
    (∀ p ∈ pushInputs (stamped 0 exampleBytes) ++ [⟨false, none⟩, ⟨false, some ⟨0x501#11, ⟨0⟩, ⟨0⟩⟩⟩], p.rst = false) ∧
    ((pushInputs (stamped 0 exampleBytes) ++ [(⟨false, none⟩ : PortInput Timestamp), ⟨false, some ⟨0x501#11, ⟨0⟩, ⟨0⟩⟩⟩]).filterMap
      PortInput.pushed).length < 10 := by decide

theorem witness_FrameFromEmptyWindowDecodes :
    (withInputs (pushInputs ((exampleFrame 0).payload.toList ++ [(exampleFrame 0).crcByte]))).window = [] ∧
    (exampleFrame 0).crcByte.value = crc8 (vals (exampleFrame 0).payload.toList) := by decide +kernel

/-- S-5: three bytes 0xFF before `F`; no window that ends before the frame's CRC byte passes. -/
theorem witness_ResynchronizationReportsOneBadSpan :
    crc8 (vals (exampleFrame 3).payload.toList) = (exampleFrame 3).crcByte.value ∧
    ∀ j < 3 + 10, 10 ≤ j →
      ((stamped 0 [0xFF#8, 0xFF#8, 0xFF#8] ++ (exampleFrame 3).toList)[j - 1]?).map TimestampedByte.value ≠
        some (crc8 (vals (slice (stamped 0 [0xFF#8, 0xFF#8, 0xFF#8] ++ (exampleFrame 3).toList) (j - 10) (j - 2)))) := by
  decide +kernel

/-- S-7: one noise byte 0x56 before `F`; the ten bytes up to `F[8]` pass. -/
theorem witness_SpuriousMatchLosesTheFrame :
    ([(⟨0x56#8, ⟨0⟩, ⟨9⟩⟩ : TimestampedByte Timestamp)] ++ (exampleFrame 1).toList).take 10 =
      [] ++ Frame.toList ⟨⟨⟨0x56#8, ⟨0⟩, ⟨9⟩⟩, ⟨0x19#8, ⟨10⟩, ⟨19⟩⟩, ⟨0x30#8, ⟨20⟩, ⟨29⟩⟩, ⟨0x39#8, ⟨30⟩, ⟨39⟩⟩,
        ⟨0x00#8, ⟨40⟩, ⟨49⟩⟩, ⟨0x64#8, ⟨50⟩, ⟨59⟩⟩, ⟨0x00#8, ⟨60⟩, ⟨69⟩⟩, ⟨0x0A#8, ⟨70⟩, ⟨79⟩⟩, ⟨0x04#8, ⟨80⟩, ⟨89⟩⟩⟩, ⟨0x10#8, ⟨90⟩, ⟨99⟩⟩⟩ ∧
    crc8 [0x56#8, 0x19#8, 0x30#8, 0x39#8, 0x00#8, 0x64#8, 0x00#8, 0x0A#8, 0x04#8] = 0x10#8 ∧
    ∀ i < 10, ¬ 10 ≤ i := by decide +kernel

/-- S-12: the step that confirms `F`, with `F` presented again. -/
theorem witness_EmissionEmptiesTheWindow :
    (nextOf (step { withWindow (stamped 0 exampleBytes) with
      inputs := pushInputs [⟨0xA3#8, ⟨90⟩, ⟨99⟩⟩] ++
        pushInputs ((exampleFrame 10).payload.toList ++ [(exampleFrame 10).crcByte]) })).any
      (fun t => t.out != [] &&
        t.inputs == pushInputs ((exampleFrame 10).payload.toList ++ [(exampleFrame 10).crcByte]) ++ []) = true ∧
    (exampleFrame 10).crcByte.value = crc8 (vals (exampleFrame 10).payload.toList) := by decide +kernel

theorem witness_TailOfTheStreamIsDropped :
    (withInputs (pushInputs (exampleFrame 0).payload.toList)).window = [] := rfl

theorem witness_StreamEndFlushesNothing : (withWindow (stamped 0 exampleBytes)).inputs = [] := rfl

/-- S-6 for the run from the empty window; for the third clause, ten zeros behind one byte 0xAA. -/
theorem witness_ZeroRunsConfirmFrames :
    (∀ f ∈ [zeroFrame, zeroFrame], ∀ b ∈ f.toList, b.value = 0x00#8) ∧
    (∀ b ∈ stamped 1 (List.replicate 10 0x00#8), b.value = 0x00#8) ∧
    (∀ b ∈ (stamped 0 [0xAA#8] ++ stamped 1 (List.replicate 10 0x00#8)).drop (11 - 10), b.value = 0x00#8) := by
  decide +kernel

theorem witness_WindowGrowsWithoutBound :
    ∀ b ∈ stamped 0 (List.replicate 12 0x01#8), b.value = 0x01#8 := by decide

/-- S-3: ten bytes that did not match, and one more is pushed. -/
theorem witness_WindowInvariantIsKept :
    NoWindowMatches (stamped 0 (exampleBytes ++ [0xA2#8])) ∧
    ∃ t, step { withWindow (stamped 0 (exampleBytes ++ [0xA2#8])) with inputs := pushInputs [⟨0xFF#8, ⟨100⟩, ⟨109⟩⟩] } =
      .next t :=
  ⟨by decide +kernel, _, rfl⟩

theorem witness_WindowHoldsTheBytesSinceTheLastClear :
    ∃ t, run 2 (withInputs (pushInputs (stamped 0 [0x11#8, 0x22#8]) ++ [])) = .next t ∧
      (withInputs (pushInputs (stamped 0 [0x11#8, 0x22#8]) ++ [])).window = [] := ⟨_, rfl, rfl⟩

/-- The two ends of R32: an empty window with any `fs`, and eleven elements. -/
theorem witness_BoundedPushRefinesPush :
    BoundedWindow.Represents ⟨0, [], ⟨77⟩⟩ (withWindow []).window ∧
    BoundedWindow.Represents ⟨10, stamped 1 (exampleBytes ++ [0xA2#8]), ⟨0⟩⟩
      (withWindow (stamped 0 (0xAA#8 :: exampleBytes ++ [0xA2#8]))).window := by
  refine ⟨⟨rfl, rfl, by simp [withWindow]⟩, ⟨by decide, by decide, ?_⟩⟩
  intro first h
  cases h
  rfl

/-- Two windows of eleven that differ in the value and the end time of the oldest byte. -/
theorem witness_OutputsDependOnlyOnTheWindowView :
    windowView ((⟨0xAA#8, ⟨0⟩, ⟨9⟩⟩ : TimestampedByte Timestamp) :: stamped 1 (exampleBytes ++ [0xA2#8])) =
      windowView ((⟨0xBB#8, ⟨0⟩, ⟨5⟩⟩ : TimestampedByte Timestamp) :: stamped 1 (exampleBytes ++ [0xA2#8])) := by decide

theorem witness_RunsAreAFunctionOfStateAndCommands :
    (withWindow (stamped 0 [0x11#8])).window = ({ withWindow (stamped 0 [0x11#8]) with freeCount := 5 } : State).window :=
  rfl

theorem witness_TimestampsAreOnlyCopied :
    ∃ t, step { withWindow (stamped 0 exampleBytes) with inputs := pushInputs [⟨0xA3#8, ⟨90⟩, ⟨99⟩⟩] } = .next t :=
  ⟨_, rfl⟩

theorem witness_NoTimestampIsCreated :
    State.AllTimes (fun x => x.index < 100)
      { withWindow (stamped 0 exampleBytes) with inputs := pushInputs [⟨0xA3#8, ⟨90⟩, ⟨99⟩⟩] } := by
  refine ⟨by decide, ?_, by decide, by decide⟩
  intro p hp c hc
  simp only [pushInputs, List.map_cons, List.map_nil, List.mem_singleton] at hp
  subst hp
  cases hc
  decide

theorem witness_LinksAreIndependent :
    ∃ ms, stepLink 0 [State.reset, withWindow (stamped 0 [0x11#8])] = .next ms ∧ (0 : Nat) ≠ 1 :=
  ⟨_, rfl, by decide⟩

/-- A step that confirms a frame, and one that pushes nothing. -/
theorem witness_BundleStandsForTheRecords :
    (∃ t, step { withWindow (stamped 0 exampleBytes) with inputs := pushInputs [⟨0xA3#8, ⟨90⟩, ⟨99⟩⟩] } = .next t) ∧
    (withInputs []).presented.pushed = none := ⟨⟨_, rfl⟩, rfl⟩

theorem witness_ValidBitsMarkConfirmedFrames :
    ∃ t, step { withWindow (stamped 0 exampleBytes) with inputs := pushInputs [⟨0xA3#8, ⟨90⟩, ⟨99⟩⟩] } = .next t :=
  ⟨_, rfl⟩

/-- Ten elements, the last length that the clause on short windows speaks of. -/
theorem witness_StatusOutputs : (withWindow (stamped 0 (exampleBytes ++ [0xA2#8]))).window.length ≤ 10 := by decide

theorem witness_CrcAlgebra : ([0x55#8, 0x01#8] : List Byte).length = ([0xAA#8, 0x00#8] : List Byte).length := rfl

/-- C-25 with an idle step and a PUSH in between. -/
theorem witness_CrcPortComputesCrc :
    decodeCommand ⟨0x400#11, ⟨0⟩, ⟨0⟩⟩ = .crcClr 0x00#8 ∧
    ∀ p ∈ [(⟨false, some ⟨0x531#11, ⟨0⟩, ⟨0⟩⟩⟩ : PortInput Timestamp), ⟨false, none⟩, ⟨false, some ⟨0x119#11, ⟨0⟩, ⟨9⟩⟩⟩,
      ⟨false, some ⟨0x532#11, ⟨0⟩, ⟨0⟩⟩⟩], p.rst = false ∧ ∀ d', p.instr ≠ .crcClr d' := by
  refine ⟨by decide, ?_⟩
  intro p hp
  simp only [List.mem_cons, List.not_mem_nil, or_false] at hp
  rcases hp with rfl | rfl | rfl | rfl <;> exact ⟨rfl, by intro d' h; cases h⟩

theorem witness_PseudoInstructionsDoWhatTheySay :
    (withInputs (assemble [.frame (exampleFrame 0).payload ⟨90⟩ ⟨99⟩] ++ [])).window = [] ∧
    (assemble [.crc8 [0x31#8]]).length = 2 := by decide +kernel

/-- A step and a run of two steps of the closed machine; for the third clause any block will do. -/
theorem witness_BlockTakesAnyTimestampType :
    (∃ t, step (withInputs (pushInputs (stamped 0 [0x11#8, 0x22#8]) ++ [])) = .next t) ∧
    ∃ t, run (pushInputs (stamped 0 [0x11#8, 0x22#8])).length
      (withInputs (pushInputs (stamped 0 [0x11#8, 0x22#8]) ++ [])) = .next t := ⟨⟨_, rfl⟩, _, rfl⟩

end Sys2Proof.Tests
end

section
/-! The block is blind to its timestamps (R8, R158), and the closed machine is the block at the type `Timestamp`.

The idea in both: `process` reads a window through its length and its byte values alone, so a change `g` of timestamps
commutes with it, hence with every block operation, with `Block.onPort` and with `Block.run`. A step of the closed
machine is `State.perform` of `Block.onPort`, which carries this over to `step`. -/

namespace Sys2Proof.Machine

/-! ### Changing the timestamps of bytes, frames and records -/

section
variable {τ σ : Type} (g : τ → σ)

/-- Every timestamp of a payload. -/
def Payload.mapTime (p : Payload τ) : Payload σ :=
  { p0 := p.p0.mapTime g, p1 := p.p1.mapTime g, p2 := p.p2.mapTime g, p3 := p.p3.mapTime g, p4 := p.p4.mapTime g,
    p5 := p.p5.mapTime g, p6 := p.p6.mapTime g, p7 := p.p7.mapTime g, p8 := p.p8.mapTime g }

/-- Every timestamp of a frame. -/
def Frame.mapTime (f : Frame τ) : Frame σ := { payload := f.payload.mapTime g, crcByte := f.crcByte.mapTime g }

@[simp] theorem vals_map_mapTime (S : List (TimestampedByte τ)) :
    vals (S.map (TimestampedByte.mapTime g)) = vals S :=
  List.map_map

@[simp] theorem Payload.toList_mapTime (p : Payload τ) :
    (p.mapTime g).toList = p.toList.map (TimestampedByte.mapTime g) := rfl

@[simp] theorem Frame.toList_mapTime (f : Frame τ) :
    (f.mapTime g).toList = f.toList.map (TimestampedByte.mapTime g) := rfl

/-- The CRC test reads values alone. -/
@[simp] theorem Frame.passes_mapTime (f : Frame τ) : (f.mapTime g).passes = f.passes := by
  simp only [Frame.passes, Frame.mapTime, Payload.toList_mapTime, vals_map_mapTime]
  rfl

@[simp] theorem decodePayload_mapTime (p : Payload τ) :
    decodePayload (p.mapTime g) = (decodePayload p).map (DecodedRecord.mapTime g) := rfl

@[simp] theorem checksumGood_mapTime (c : TimestampedByte τ) :
    checksumGood (c.mapTime g) = (checksumGood c).mapTime g := rfl

@[simp] theorem badSpanOf_map_mapTime (bad : List (TimestampedByte τ)) :
    badSpanOf (bad.map (TimestampedByte.mapTime g)) = (badSpanOf bad).map (DecodedRecord.mapTime g) := by
  cases bad with
  | nil => rfl
  | cons first rest =>
    have hlast : (rest.map (TimestampedByte.mapTime g)).getLastD (first.mapTime g) =
        (rest.getLastD first).mapTime g := by
      simp only [List.getLastD_eq_getLast?, List.getLast?_map, Option.getD_map]
    simp only [List.map_cons, badSpanOf, hlast]
    rfl

theorem frameRecords_mapTime (bad : List (TimestampedByte τ)) (f : Frame τ) :
    frameRecords (bad.map (TimestampedByte.mapTime g)) (f.mapTime g) =
      (frameRecords bad f).map (DecodedRecord.mapTime g) := by
  simp only [frameRecords, Frame.mapTime, badSpanOf_map_mapTime, decodePayload_mapTime, checksumGood_mapTime,
    List.map_append, List.map_cons, List.map_nil]

/-- `process` commutes with a change of timestamps: the split depends on the length, the test on values, and the
records copy. -/
theorem process_mapTime (W : List (TimestampedByte τ)) (b : TimestampedByte τ) :
    process (W.map (TimestampedByte.mapTime g)) (b.mapTime g) =
      ((process W b).1.map (TimestampedByte.mapTime g), (process W b).2.map (DecodedRecord.mapTime g)) := by
  have hsplit {bad : List (TimestampedByte τ)} {f : Frame τ} (hW : W ++ [b] = bad ++ f.toList) :
      W.map (TimestampedByte.mapTime g) ++ [b.mapTime g] =
        bad.map (TimestampedByte.mapTime g) ++ (f.mapTime g).toList := by
    simpa using congrArg (List.map (TimestampedByte.mapTime g)) hW
  obtain ⟨hshort, hp⟩ | ⟨bad, f, hW, hfail, hp⟩ | ⟨bad, f, hW, hpass, hp⟩ := process_cases W b
  · rw [process_of_short _ (by simpa using hshort), hp]
    simp
  · rw [process_of_split (hsplit hW), hp]
    simp [hfail]
  · rw [process_of_split (hsplit hW), hp]
    simp [hpass, frameRecords_mapTime]

/-! ### Changing the timestamps of the block -/

/-- Every timestamp of what a block operation answers: the block after it and its records. -/
def mapAnswer (r : Block τ × List (DecodedRecord τ)) : Block σ × List (DecodedRecord σ) :=
  (r.1.mapTime g, r.2.map (DecodedRecord.mapTime g))

theorem Block.idle_mapTime (B : Block τ) : (B.mapTime g).idle = mapAnswer g B.idle := rfl
theorem Block.crcClr_mapTime (B : Block τ) : (B.mapTime g).crcClr = mapAnswer g B.crcClr := rfl
theorem Block.crcUpd_mapTime (d : Byte) (B : Block τ) : (B.mapTime g).crcUpd d = mapAnswer g (B.crcUpd d) := rfl
theorem Block.refuse_mapTime (B : Block τ) : (B.mapTime g).refuse = mapAnswer g B.refuse := rfl
theorem Block.reset_mapTime (B : Block τ) : (B.mapTime g).reset = mapAnswer g B.reset := rfl

theorem Block.push_mapTime (b : TimestampedByte τ) (B : Block τ) :
    (B.mapTime g).push (b.mapTime g) = mapAnswer g (B.push b) := by
  simp only [Block.push, Block.mapTime, mapAnswer, process_mapTime]

/-- Every command: the word decides, and the side band is only the operand of PUSH (R62). -/
theorem Block.onCommand_mapTime (c : Command τ) (B : Block τ) :
    (B.mapTime g).onCommand ⟨c.word, g c.tsStart, g c.tsEnd⟩ = mapAnswer g (B.onCommand c) := by
  unfold Block.onCommand
  cases decodeCommand ⟨c.word, Timestamp.low, Timestamp.low⟩ with
  | push v a e => exact B.push_mapTime g (timestampedByte v c.tsStart c.tsEnd)
  | nop d => exact B.idle_mapTime g
  | crcClr d => exact B.crcClr_mapTime g
  | crcUpd d => exact B.crcUpd_mapTime g d
  | reserved010 d => exact B.refuse_mapTime g
  | reserved011 d => exact B.refuse_mapTime g
  | reserved110 d => exact B.refuse_mapTime g
  | reserved111 d => exact B.refuse_mapTime g

/-- Every step on port values. -/
theorem Block.onPort_mapTime (p : PortInput τ) (B : Block τ) :
    (B.mapTime g).onPort (p.mapTime g) = mapAnswer g (B.onPort p) := by
  match p with
  | ⟨true, _⟩ => exact B.reset_mapTime g
  | ⟨false, none⟩ => exact B.idle_mapTime g
  | ⟨false, some c⟩ => exact B.onCommand_mapTime g c

/-- Every run. -/
theorem Block.run_mapTime (ins : List (PortInput τ)) (B : Block τ) :
    Block.run (ins.map (PortInput.mapTime g)) (B.mapTime g) = mapAnswer g (Block.run ins B) := by
  induction ins generalizing B with
  | nil => rfl
  | cons p ps ih =>
    simp only [List.map_cons, Block.run_cons, Block.onPort_mapTime, mapAnswer, ih, List.map_append]
end

/-! ### The closed machine is the block at the type `Timestamp` -/

/-- A decoded command performs the block's operation for it. -/
theorem exec_decodeCommand (c : Command Timestamp) (s : State) :
    exec (decodeCommand c) s = .next (s.perform (Block.onCommand c)) := by
  rw [funext (Block.onCommand_of_decode c)]
  cases decodeCommand c <;> rfl

theorem stepPort_eq_perform (p : PortInput Timestamp) (s : State) :
    stepPort p s = .next (s.perform (Block.onPort p)) := by
  match p with
  | ⟨true, _⟩ => rfl
  | ⟨false, none⟩ => rfl
  | ⟨false, some c⟩ => exact exec_decodeCommand c s

theorem step_eq_perform (s : State) : step s = .next (s.taken.perform (Block.onPort s.presented)) :=
  stepPort_eq_perform s.presented s.taken

/-- A run over the port values `ins` is the block's run over them. -/
theorem run_block_log {ins rest : List (PortInput Timestamp)} {s t : State} (hin : s.inputs = ins ++ rest)
    (h : run ins.length s = .next t) :
    t.block = (Block.run ins s.block).1 ∧ t.log = s.log ++ (Block.run ins s.block).2 := by
  induction ins generalizing s with
  | nil =>
    cases h
    simp
  | cons p ps ih =>
    have hpres : s.presented = p := State.presented_cons hin
    rw [List.length_cons, run_succ_of_step (step_eq_perform s), hpres] at h
    obtain ⟨hblock, hlog⟩ := ih (by simp [hin]) h
    rw [Block.run_cons]
    exact ⟨by simpa using hblock, by simpa using hlog⟩

/-! ### Changing the timestamps of the state -/

section
variable (g : Timestamp → Timestamp) (s : State)

theorem State.presented_mapTime : (s.mapTime g).presented = s.presented.mapTime g := by
  cases hin : s.inputs with
  | nil => simp [State.presented, State.mapTime, hin, idleInput, PortInput.mapTime]
  | cons p ps => simp [State.presented, State.mapTime, hin]

theorem State.taken_mapTime : (s.mapTime g).taken = s.taken.mapTime g := by
  simp [State.taken, State.mapTime]

/-- A block operation that commutes with the change of timestamps on the state's block does so as a step. -/
theorem State.perform_mapTime {f f' : Block Timestamp → Block Timestamp × List (DecodedRecord Timestamp)}
    (hf : f' (s.block.mapTime g) = mapAnswer g (f s.block)) :
    (s.mapTime g).perform f' = (s.perform f).mapTime g := by
  have hblock : f' (s.mapTime g).block = mapAnswer g (f s.block) := hf
  simp only [State.perform, hblock]
  simp [State.mapTime, mapAnswer, Block.mapTime]

theorem step_mapTime : step (s.mapTime g) = .next ((s.taken.perform (Block.onPort s.presented)).mapTime g) := by
  rw [step_eq_perform, State.presented_mapTime, State.taken_mapTime]
  exact congrArg _ (s.taken.perform_mapTime g (Block.onPort_mapTime g s.presented s.taken.block))
end

/-- Settles O45: a step performs `Block.onPort`, which commutes with every change of timestamps. -/
theorem timestampsAreOnlyCopied : Obligations.TimestampsAreOnlyCopied := by
  intro g s t h
  rw [step_eq_perform] at h
  cases h
  exact step_mapTime g s

/-- Settles O60: the closed machine performs `Block.onPort` at each step, and the block's runs commute with every
function between two types of timestamps. -/
theorem blockTakesAnyTimestampType : Obligations.BlockTakesAnyTimestampType := by
  refine ⟨⟨State.reset_block, ?_⟩, fun s t ins rest => run_block_log, fun τ σ g => Block.run_mapTime g⟩
  intro s t h
  rw [step_eq_perform] at h
  cases h
  exact ⟨rfl, rfl⟩

end Sys2Proof.Machine
end

section
/-! The synchronizer's part of a step, in layers: the port values of a line, what a step does to the window and its
records, and a run as an iterated function. -/

namespace Sys2Proof.Machine

/-! ### Decoding what was encoded, and the port values that push a byte -/

/-- The bits of the word above `data` are the operation selector. -/
theorem getLsbD_encodeWord (i : Instr) (k : Nat) : (encodeWord i).getLsbD (8 + k) = i.op.getLsbD k := by
  rw [encodeWord, getLsbD_word, if_neg (by omega), Nat.add_sub_cancel_left]

/-- Each constructor's operation selector is its row of R61. -/
theorem decodeCommand_encode (i : Instr) : decodeCommand (encode i) = i := by
  have h10 := getLsbD_encodeWord i 2
  have h9 := getLsbD_encodeWord i 1
  have h8 := getLsbD_encodeWord i 0
  have hdata : dataField (encodeWord i) = i.data := dataField_append i.op i.data
  cases i <;> simp only [decodeCommand, encode, h10, h9, h8, hdata] <;> simp [Instr.op, Instr.data]

/-- A command performs the block's operation for its encoding. -/
theorem exec_eq_perform (i : Instr) (s : State) : exec i s = .next (s.perform (Block.onCommand (encode i))) := by
  have h := exec_decodeCommand (encode i) s
  rwa [decodeCommand_encode] at h

@[simp] theorem portInput_pushLine (b : TimestampedByte Timestamp) :
    (pushLine b).portInput = ⟨false, some (encode (.push b.value b.startTime b.endTime))⟩ := rfl

/-- The line `PUSH b` performs PUSH of `b` (R72). -/
theorem Block.onPort_pushLine (b : TimestampedByte Timestamp) (B : Block Timestamp) :
    B.onPort (pushLine b).portInput = B.push b := by
  rw [portInput_pushLine, Block.onPort_some, Block.onCommand_of_decode, decodeCommand_encode]
  rfl

@[simp] theorem pushInputs_nil : pushInputs [] = [] := rfl
@[simp] theorem pushInputs_cons (b : TimestampedByte Timestamp) (bs : List (TimestampedByte Timestamp)) :
    pushInputs (b :: bs) = (pushLine b).portInput :: pushInputs bs := rfl
@[simp] theorem length_pushInputs (bs : List (TimestampedByte Timestamp)) : (pushInputs bs).length = bs.length := by
  simp [pushInputs]

/-! ### One step, seen from the synchronizer -/

theorem PortInput.pushed_of_rst {p : PortInput Timestamp} (h : p.rst = true) : p.pushed = none := by
  simp [PortInput.pushed, h]

theorem PortInput.pushed_of_push {p : PortInput Timestamp} {v : Byte} {a e : Timestamp} (hr : p.rst = false)
    (hi : p.instr = .push v a e) : p.pushed = some (timestampedByte v a e) := by
  simp [PortInput.pushed, hr, hi]

theorem PortInput.pushed_eq_none {p : PortInput Timestamp} (hi : ∀ v a e, p.instr ≠ .push v a e) :
    p.pushed = none := by
  unfold PortInput.pushed
  split
  · rfl
  · cases h : p.instr with
    | push v a e => exact absurd h (hi v a e)
    | _ => rfl

/-- Everything a step can do to the window and emit: the reset event, a PUSH, or a step that leaves both alone. -/
theorem step_sync_cases {s t : State} (h : step s = .next t) :
    (s.presented.rst = true ∧ s.presented.pushed = none ∧ t.window = [] ∧ t.out = []) ∨
    (s.presented.rst = false ∧ s.presented.pushed = none ∧ t.window = s.window ∧ t.out = []) ∨
    (∃ b, s.presented.rst = false ∧ s.presented.pushed = some b ∧ t = s.taken.perform (Block.push b)) := by
  obtain ⟨hr, rfl⟩ | ⟨hr, hexec⟩ := step_cases h
  · exact .inl ⟨hr, PortInput.pushed_of_rst hr, rfl, rfl⟩
  obtain ⟨⟨d, hi⟩, rfl⟩ | ⟨v, a, e, hi, rfl⟩ | ⟨⟨d, hi⟩, rfl⟩ | ⟨d, hi, rfl⟩ | ⟨hi, rfl⟩ := exec_cases hexec
  · exact .inr (.inl ⟨hr, PortInput.pushed_eq_none (by simp [hi]), rfl, rfl⟩)
  · exact .inr (.inr ⟨timestampedByte v a e, hr, PortInput.pushed_of_push hr hi, rfl⟩)
  · exact .inr (.inl ⟨hr, PortInput.pushed_eq_none (by simp [hi]), rfl, rfl⟩)
  · exact .inr (.inl ⟨hr, PortInput.pushed_eq_none (by simp [hi]), rfl, rfl⟩)
  · refine .inr (.inl ⟨hr, PortInput.pushed_eq_none ?_, rfl, rfl⟩)
    intro v a e hpush
    simp [hpush, Instr.isReserved] at hi

/-! ### A run is an iterated function -/

/-- The state after one step. -/
def State.afterStep (s : State) : State := s.taken.perform (Block.onPort s.presented)

theorem step_eq_afterStep (s : State) : step s = .next s.afterStep := step_eq_perform s

theorem run_eq_iterate (k : Nat) (s : State) : run k s = .next (State.afterStep^[k] s) := by
  induction k generalizing s with
  | zero => rfl
  | succ k ih => rw [run_succ_of_step (step_eq_afterStep s), ih, Function.iterate_succ_apply]

theorem State.iterate_afterStep_inputs (k : Nat) (s : State) :
    (State.afterStep^[k] s).inputs = s.inputs.drop k := by
  induction k generalizing s with
  | zero => rfl
  | succ k ih =>
    rw [Function.iterate_succ_apply, ih]
    simp [State.afterStep]

end Sys2Proof.Machine
end

section
/-! The window's invariant (R23) and what it says of steps and runs.

The idea: a window of `W` that passes is a frame `f` that passes with `W = bad ++ f.toList ++ rest`. A PUSH adds the one
frame that ends in its byte, and the test of R100 is of just that frame. -/

namespace Sys2Proof.Machine

section
variable {τ : Type}

/-! ### Windows of `W` as frames in `W` -/

/-- The test of R23 at the end of the frame `f` in `bad ++ f.toList ++ rest` is the test of `f`. -/
theorem windowMatches_iff_passes (bad rest : List (TimestampedByte τ)) (f : Frame τ) :
    ((bad ++ f.toList ++ rest)[bad.length + 10 - 1]?).map TimestampedByte.value =
        some (crc8 (vals (slice (bad ++ f.toList ++ rest) (bad.length + 10 - 10) (bad.length + 10 - 2)))) ↔
      f.passes = true := by
  obtain ⟨hslice, hlast⟩ := slice_of_frame bad f
  have hlen : (bad ++ f.toList).length = bad.length + 10 := by simp
  rw [hlen] at hslice hlast
  have htake : slice (bad ++ f.toList ++ rest) (bad.length + 10 - 10) (bad.length + 10 - 2) =
      slice (bad ++ f.toList) (bad.length + 10 - 10) (bad.length + 10 - 2) := by
    unfold slice
    rw [List.take_append_of_le_length (by omega)]
  rw [List.getElem?_append_left (by omega), hlast, htake, hslice, Frame.passes_iff]
  exact ⟨fun h => (Option.some.inj h).symm, fun h => congrArg some h.symm⟩

/-- R23's second case in terms of frames. -/
theorem noWindowMatches_iff {W : List (TimestampedByte τ)} :
    NoWindowMatches W ↔ ∀ bad f rest, W = bad ++ Frame.toList f ++ rest → f.passes = false := by
  constructor
  · rintro h bad f rest rfl
    have hj := h (bad.length + 10) (by simp) (by omega)
    rwa [Ne, windowMatches_iff_passes, Bool.not_eq_true] at hj
  · intro h j hj h10
    have htake : (W.take j).length = j := List.length_take_of_le (by omega)
    obtain ⟨bad, f, hf⟩ := exists_split (W := W.take j) (by omega)
    have hW : W = bad ++ f.toList ++ W.drop j := by rw [← hf, List.take_append_drop]
    obtain rfl : bad.length + 10 = j := by rw [← htake, hf]; simp
    rw [hW, Ne, windowMatches_iff_passes, h bad f _ hW]
    exact Bool.false_ne_true

theorem noWindowMatches_nil : NoWindowMatches ([] : List (TimestampedByte τ)) := by
  intro j hj h10
  simp at hj
  omega

theorem NoWindowMatches.of_append {W V : List (TimestampedByte τ)} (h : NoWindowMatches (W ++ V)) :
    NoWindowMatches W := by
  rw [noWindowMatches_iff] at h ⊢
  rintro bad f rest rfl
  exact h bad f (rest ++ V) (List.append_assoc ..)

/-- One byte more adds one window, the one that ends in it. -/
theorem NoWindowMatches.append_singleton {W : List (TimestampedByte τ)} {b : TimestampedByte τ}
    (hW : NoWindowMatches W) (hlast : ∀ bad f, W ++ [b] = bad ++ Frame.toList f → f.passes = false) :
    NoWindowMatches (W ++ [b]) := by
  rw [noWindowMatches_iff] at hW ⊢
  intro bad f rest h
  obtain rfl | ⟨init, c, rfl⟩ := rest.eq_nil_or_concat
  · exact hlast bad f (by simpa using h)
  · rw [List.concat_eq_append, ← List.append_assoc] at h
    exact hW bad f init (List.append_inj_left' h rfl)

/-! ### `process` and the invariant -/

/-- `process` clears the window when the ten elements up to the new byte pass, and else keeps every element. -/
theorem process_window_cases (W : List (TimestampedByte τ)) (b : TimestampedByte τ) :
    (process W b = (W ++ [b], []) ∧ ∀ bad f, W ++ [b] = bad ++ Frame.toList f → f.passes = false) ∨
    ((process W b).1 = [] ∧ ∃ bad f, W ++ [b] = bad ++ Frame.toList f ∧ f.passes = true) := by
  obtain ⟨hshort, hp⟩ | ⟨bad, f, hW, hfail, hp⟩ | ⟨bad, f, hW, hpass, hp⟩ := process_cases W b
  · refine .inl ⟨hp, fun bad f h => ?_⟩
    have hlen := congrArg List.length h
    simp at hlen
    omega
  · refine .inl ⟨hp, fun bad' f' h => ?_⟩
    obtain ⟨-, hf⟩ := List.append_inj' (hW.symm.trans h) (by simp)
    rwa [← Frame.toList_injective hf]
  · exact .inr ⟨by rw [hp], bad, f, hW, hpass⟩

theorem process_of_noWindowMatches {W : List (TimestampedByte τ)} {b : TimestampedByte τ}
    (h : NoWindowMatches (W ++ [b])) : process W b = (W ++ [b], []) := by
  obtain ⟨hp, -⟩ | ⟨-, bad, f, hW, hpass⟩ := process_window_cases W b
  · exact hp
  · have hfail := noWindowMatches_iff.mp h bad f [] (by simpa using hW)
    simp [hfail] at hpass
end

/-- Pushes among whose windows none passes are all kept, and emit nothing (R102, R104). -/
theorem Block.run_pushInputs_of_noWindowMatches {bs : List (TimestampedByte Timestamp)} {B : Block Timestamp}
    (h : NoWindowMatches (B.window ++ bs)) :
    Block.run (pushInputs bs) B = ({ B with window := B.window ++ bs }, []) := by
  induction bs generalizing B with
  | nil => simp
  | cons b bs ih =>
    rw [List.append_cons] at h
    have hpush : B.push b = ({ B with window := B.window ++ [b] }, []) := by
      simp only [Block.push, process_of_noWindowMatches h.of_append]
    rw [pushInputs_cons, Block.run_cons, Block.onPort_pushLine, hpush, ih h]
    simp

/-! ### Steps and the invariant -/

/-- Everything a step can do to the window (R22), with the reason why it empties or keeps it. -/
theorem step_window_cases {s t : State} (h : step s = .next t) :
    (s.presented.rst = true ∧ s.presented.pushed = none ∧ t.window = []) ∨
    (s.presented.rst = false ∧ s.presented.pushed = none ∧ t.window = s.window) ∨
    (∃ b, s.presented.rst = false ∧ s.presented.pushed = some b ∧ t.window = s.window ++ [b] ∧
      ∀ bad f, s.window ++ [b] = bad ++ Frame.toList f → f.passes = false) ∨
    (∃ b, s.presented.rst = false ∧ s.presented.pushed = some b ∧ t.window = [] ∧
      ∃ bad f, s.window ++ [b] = bad ++ Frame.toList f ∧ f.passes = true) := by
  obtain ⟨hr, hp, hw, -⟩ | ⟨hr, hp, hw, -⟩ | ⟨b, hr, hp, rfl⟩ := step_sync_cases h
  · exact .inl ⟨hr, hp, hw⟩
  · exact .inr (.inl ⟨hr, hp, hw⟩)
  · obtain ⟨hkeep, hfail⟩ | ⟨hclear, hpass⟩ := process_window_cases s.window b
    · exact .inr (.inr (.inl ⟨b, hr, hp, by simp [hkeep], hfail⟩))
    · exact .inr (.inr (.inr ⟨b, hr, hp, hclear, hpass⟩))

theorem step_noWindowMatches {s t : State} (hs : NoWindowMatches s.window) (h : step s = .next t) :
    NoWindowMatches t.window := by
  obtain ⟨-, -, hw⟩ | ⟨-, -, hw⟩ | ⟨b, -, -, hw, hfail⟩ | ⟨b, -, -, hw, -⟩ := step_window_cases h <;> rw [hw]
  · exact noWindowMatches_nil
  · exact hs
  · exact hs.append_singleton hfail
  · exact noWindowMatches_nil

/-- Settles O39: of the cases of a step, only a PUSH that keeps its byte adds a window, and that one failed the test. -/
theorem windowInvariantIsKept : Obligations.WindowInvariantIsKept := by
  intro s t hs h
  refine ⟨step_noWindowMatches hs h, ?_⟩
  obtain ⟨-, -, hw⟩ | ⟨-, hp, hw⟩ | ⟨b, -, hp, hw, -⟩ | ⟨b, -, -, hw, -⟩ := step_window_cases h
  · exact .inl hw
  · exact .inr (by simp [hw, hp])
  · exact .inr (by simp [hw, hp])
  · exact .inl hw

/-- Settles O40: a fresh block's window is empty. -/
theorem resetMeetsTheWindowInvariant : Obligations.ResetMeetsTheWindowInvariant := noWindowMatches_nil

/-- Settles O28, by the cases of a step. -/
theorem windowChangesInThreeWays : Obligations.WindowChangesInThreeWays := by
  intro s t h
  obtain ⟨hr, -, hw⟩ | ⟨-, -, hw⟩ | ⟨b, -, hp, hw, -⟩ | ⟨b, -, hp, hw, bad, f, hf, hpass⟩ := step_window_cases h
  · exact .inr (.inr (.inl ⟨hw, hr⟩))
  · exact .inl hw
  · exact .inr (.inl ⟨b, hp, hw⟩)
  · exact .inr (.inr (.inr ⟨hw, b, hp, bad, f, hf, f.passes_iff.mp hpass⟩))

/-! ### Runs and the invariant -/

/-- `W` is the bytes that the last steps of `ins` pushed, from a step on whose start the window was empty, and no reset
was among them. -/
def HoldsSinceClear (s : State) (ins : List (PortInput Timestamp)) (W : List (TimestampedByte Timestamp)) : Prop :=
  ∃ done since u, ins = done ++ since ∧ run done.length s = .next u ∧ u.window = [] ∧
    (∀ p ∈ since, p.rst = false) ∧ W = since.filterMap PortInput.pushed

theorem holdsSinceClear_of_empty {s t : State} {ins : List (PortInput Timestamp)} (h : run ins.length s = .next t)
    (hw : t.window = []) : HoldsSinceClear s ins t.window :=
  ⟨ins, [], t, by simp, h, hw, by simp, by simp [hw]⟩

/-- One step without reset more, which pushes what it pushes. -/
theorem HoldsSinceClear.append_step {s : State} {ins : List (PortInput Timestamp)}
    {W : List (TimestampedByte Timestamp)} {p : PortInput Timestamp} (h : HoldsSinceClear s ins W)
    (hr : p.rst = false) : HoldsSinceClear s (ins ++ [p]) (W ++ p.pushed.toList) := by
  obtain ⟨done, since, u, rfl, hrun, hu, hrst, rfl⟩ := h
  refine ⟨done, since ++ [p], u, List.append_assoc .., hrun, hu, ?_, ?_⟩
  · simpa [or_imp, forall_and, hr] using hrst
  · cases hp : p.pushed <;> simp [hp]

theorem run_window_invariant {s : State} {ins rest : List (PortInput Timestamp)} (hs : s.window = [])
    (hin : s.inputs = ins ++ rest) :
    NoWindowMatches (State.afterStep^[ins.length] s).window ∧
      HoldsSinceClear s ins (State.afterStep^[ins.length] s).window := by
  induction ins using List.reverseRecOn generalizing rest with
  | nil => exact ⟨by simpa [hs] using noWindowMatches_nil, holdsSinceClear_of_empty (run_eq_iterate 0 s) hs⟩
  | append_singleton ins p ih =>
    obtain ⟨hno, hsince⟩ := ih (rest := p :: rest) (by simp [hin])
    have hrun := run_eq_iterate (ins ++ [p]).length s
    have hlast : State.afterStep^[(ins ++ [p]).length] s = (State.afterStep^[ins.length] s).afterStep := by
      rw [List.length_append, List.length_singleton, Function.iterate_succ_apply']
    rw [hlast] at hrun ⊢
    have hstep := step_eq_afterStep (State.afterStep^[ins.length] s)
    have hpres : (State.afterStep^[ins.length] s).presented = p :=
      State.presented_cons (rest := rest) (by simp [State.iterate_afterStep_inputs, hin])
    refine ⟨step_noWindowMatches hno hstep, ?_⟩
    obtain ⟨-, -, hw⟩ | ⟨hr, hp, hw⟩ | ⟨b, hr, hp, hw, -⟩ | ⟨b, -, -, hw, -⟩ := step_window_cases hstep
    · exact holdsSinceClear_of_empty hrun hw
    · rw [hpres] at hr hp
      simpa [hw, hp] using hsince.append_step hr
    · rw [hpres] at hr hp
      simpa [hw, hp] using hsince.append_step hr
    · exact holdsSinceClear_of_empty hrun hw

/-- Settles O41, by induction on the run, last step first. -/
theorem windowHoldsTheBytesSinceTheLastClear : Obligations.WindowHoldsTheBytesSinceTheLastClear := by
  intro s t ins rest hs hin h
  rw [run_eq_iterate] at h
  cases h
  exact run_window_invariant hs hin

/-- Nine bytes 0x01 have another CRC than 0x01 (S-10). -/
theorem noWindowMatches_of_ones {τ : Type} {W : List (TimestampedByte τ)} (h : ∀ b ∈ W, b.value = 0x01#8) :
    NoWindowMatches W := by
  rw [noWindowMatches_iff]
  rintro bad f rest rfl
  have hf : ∀ b ∈ f.toList, b.value = 0x01#8 := fun b hb => h b (by simp [hb])
  have hpayload : vals f.payload.toList = List.replicate 9 0x01#8 :=
    List.eq_replicate_iff.mpr ⟨by simp, by simpa [vals] using fun b hb => hf b (by simp [Frame.toList, hb])⟩
  have hcrc : f.crcByte.value = 0x01#8 := hf _ (by simp [Frame.toList])
  have hne : crc8 (List.replicate 9 0x01#8) ≠ 0x01#8 := by decide +kernel
  rw [← Bool.not_eq_true, Frame.passes_iff, hpayload, hcrc]
  exact hne

/-- Settles O38: among bytes 0x01 no window passes. -/
theorem windowGrowsWithoutBound : Obligations.WindowGrowsWithoutBound := by
  intro s bs rest hs hones hin
  have hrun := run_eq_iterate (pushInputs bs).length s
  have hkeep := Block.run_pushInputs_of_noWindowMatches (B := s.block) (bs := bs)
    (by simpa [hs] using noWindowMatches_of_ones hones)
  obtain ⟨hblock, hlog⟩ := run_block_log hin hrun
  rw [length_pushInputs] at hrun
  rw [hkeep] at hblock hlog
  exact ⟨_, hrun, by simpa [hs] using congrArg Block.window hblock, by simpa using hlog⟩

end Sys2Proof.Machine
end

section
/-! The bounded representation (R31 to R33), and what depends on the window's view alone.

The idea: a triple represents exactly the windows of one view, so a fact of the bounded PUSH, which reads the triple
alone, holds of all windows of that view alike. -/

namespace Sys2Proof.Machine

section
variable {τ : Type}

/-! ### Triples and views -/

/-- A triple represents exactly the windows of the view that it spells out. -/
theorem represents_iff_windowView {r : BoundedWindow τ} {W : List (TimestampedByte τ)} :
    r.Represents W ↔ windowView W = (r.n, r.T, if r.n = 0 then none else some r.fs) := by
  have hdrop : W.length - min W.length 10 = W.length - 10 := by omega
  unfold BoundedWindow.Represents windowView
  constructor
  · rintro ⟨hn, hT, hfs⟩
    rw [hT, hn, hdrop]
    cases W with
    | nil => simp
    | cons first rest => simp [hfs first rfl]
  · intro h
    simp only [Prod.mk.injEq] at h
    obtain ⟨hn, hT, hfs⟩ := h
    refine ⟨hn.symm, by rw [← hn, hdrop, hT], fun first hfirst => ?_⟩
    have hne : r.n ≠ 0 := by
      cases W with
      | nil => cases hfirst
      | cons _ _ => simp at hn; omega
    simpa [hfirst, hne] using hfs.symm

/-- Every window is represented; `x` is the `fs` of an empty one. -/
theorem exists_represents (W : List (TimestampedByte τ)) (x : τ) : ∃ r : BoundedWindow τ, r.Represents W :=
  ⟨⟨min W.length 10, W.drop (W.length - min W.length 10), (W.head?.map TimestampedByte.startTime).getD x⟩, rfl, rfl,
    fun first h => by simp [h]⟩

/-! ### The bounded PUSH -/

/-- The start time that PUSH of `b` leaves in the triple (R33). -/
def BoundedWindow.pushStart (r : BoundedWindow τ) (b : TimestampedByte τ) : τ :=
  if r.n = 0 then b.startTime else r.fs

theorem boundedProcess_of_short {r : BoundedWindow τ} (b : TimestampedByte τ) (h : r.n + 1 < 10) :
    boundedProcess r b = (⟨r.n + 1, r.T ++ [b], r.pushStart b⟩, []) := by
  simp [boundedProcess, BoundedWindow.pushStart, h]

theorem boundedProcess_of_split {r : BoundedWindow τ} {b : TimestampedByte τ} {dropped : List (TimestampedByte τ)}
    {f : Frame τ} (h : ¬ r.n + 1 < 10) (hT : r.T ++ [b] = dropped ++ f.toList) :
    boundedProcess r b =
      if f.passes then
        (⟨0, [], r.pushStart b⟩,
          (if r.n = 10 then dropped.head?.toList.map fun oldest => .badSpan (r.pushStart b) oldest.endTime else []) ++
            decodePayload f.payload ++ [checksumGood f.crcByte])
      else (⟨10, f.toList, r.pushStart b⟩, []) := by
  simp [boundedProcess, BoundedWindow.pushStart, h, hT]

section
variable {r : BoundedWindow τ} {W : List (TimestampedByte τ)}

/-- After the append, the triple's start time is that of the oldest element. -/
theorem BoundedWindow.Represents.pushStart_eq (h : r.Represents W) (b : TimestampedByte τ)
    {first : TimestampedByte τ} (hfirst : (W ++ [b]).head? = some first) : r.pushStart b = first.startTime := by
  obtain ⟨hn, -, hfs⟩ := h
  cases W with
  | nil =>
    cases hfirst
    simp [BoundedWindow.pushStart, hn]
  | cons x xs =>
    have hne : r.n ≠ 0 := by simp at hn; omega
    rw [BoundedWindow.pushStart, if_neg hne]
    exact hfs first hfirst

/-- A window of at most ten elements is all in the triple. -/
theorem BoundedWindow.Represents.eq_of_length_le (h : r.Represents W) (hW : W.length ≤ 10) :
    r.n = W.length ∧ r.T = W := by
  obtain ⟨hn, hT, -⟩ := h
  have hlen : r.n = W.length := by omega
  exact ⟨hlen, by simp [hT, hlen]⟩

/-- A frame at the end of the window after the append is at the end of the triple's elements, behind those of the
lead-in that the triple still holds. -/
theorem BoundedWindow.Represents.append_eq (h : r.Represents W) {b : TimestampedByte τ}
    {bad : List (TimestampedByte τ)} {f : Frame τ} (hf : W ++ [b] = bad ++ f.toList) :
    r.T ++ [b] = bad.drop (W.length - r.n) ++ f.toList := by
  obtain ⟨hn, hT, -⟩ := h
  have hlen := congrArg List.length hf
  simp at hlen
  rw [hT, ← List.drop_append_of_le_length (by omega), hf, List.drop_append_of_le_length (by omega)]

/-- The BadSpan of R33: the triple's start time, and the end time of the one element of the lead-in that it holds. -/
theorem BoundedWindow.Represents.badSpan_eq (h : r.Represents W) {b : TimestampedByte τ}
    {bad : List (TimestampedByte τ)} {f : Frame τ} (hf : W ++ [b] = bad ++ f.toList) :
    (if r.n = 10 then
        (bad.drop (W.length - r.n)).head?.toList.map fun oldest => .badSpan (r.pushStart b) oldest.endTime
      else []) = badSpanOf bad := by
  have hlen := congrArg List.length hf
  simp at hlen
  have hn := h.1
  obtain ⟨rfl, hbad⟩ | ⟨first, last, hfirst, hlast, hbad⟩ := badSpanOf_cases bad
  · simp [hbad]
  · have hpos : 0 < bad.length := List.length_pos_of_mem (List.mem_of_head? hfirst)
    have hstart : r.pushStart b = first.startTime := h.pushStart_eq b (by simp [hf, hfirst])
    have hidx : W.length - r.n = bad.length - 1 := by omega
    rw [hbad, if_pos (by omega), List.head?_drop, hidx, ← List.getLast?_eq_getElem?, hlast, hstart]
    rfl

/-- R33: the bounded PUSH emits the records of `process` and represents its window. -/
theorem boundedProcess_refines (h : r.Represents W) (b : TimestampedByte τ) :
    (boundedProcess r b).2 = (process W b).2 ∧ (boundedProcess r b).1.Represents (process W b).1 := by
  have hn := h.1
  obtain ⟨hshort, hp⟩ | ⟨bad, f, hf, hfail, hp⟩ | ⟨bad, f, hf, hpass, hp⟩ := process_cases W b
  · obtain ⟨hlen, hT⟩ := h.eq_of_length_le (by omega)
    rw [boundedProcess_of_short b (by omega), hp]
    exact ⟨rfl, by simp; omega, by simp [hT, hlen], fun first hfirst => h.pushStart_eq b hfirst⟩
  · have hlen := congrArg List.length hf
    simp at hlen
    rw [boundedProcess_of_split (by omega) (h.append_eq hf), hp, if_neg (by simp [hfail])]
    exact ⟨rfl, by simp; omega, by simp [hf], fun first hfirst => h.pushStart_eq b hfirst⟩
  · have hlen := congrArg List.length hf
    simp at hlen
    rw [boundedProcess_of_split (by omega) (h.append_eq hf), hp, if_pos hpass, h.badSpan_eq hf]
    exact ⟨rfl, rfl, rfl, fun first hfirst => by cases hfirst⟩
end

/-- `process` on two windows of one view: represent both by one triple. -/
theorem process_of_windowView_eq {W V : List (TimestampedByte τ)} (h : windowView W = windowView V)
    (b : TimestampedByte τ) :
    windowView (process W b).1 = windowView (process V b).1 ∧ (process W b).2 = (process V b).2 := by
  obtain ⟨r, hW⟩ := exists_represents W b.startTime
  have hV : r.Represents V := by rwa [represents_iff_windowView, ← h, ← represents_iff_windowView]
  obtain ⟨hrecW, hrepW⟩ := boundedProcess_refines hW b
  obtain ⟨hrecV, hrepV⟩ := boundedProcess_refines hV b
  rw [represents_iff_windowView] at hrepW hrepV
  exact ⟨hrepW.trans hrepV.symm, hrecW.symm.trans hrecV⟩

/-! ### Blocks that the records and `crc_out` do not tell apart -/

/-- The blocks agree in all but what the view leaves out of the window (R31). -/
structure Block.SameView (B C : Block τ) : Prop where
  view    : windowView B.window = windowView C.window
  acc     : B.acc = C.acc
  refused : B.refused = C.refused

/-- Both answers show the same records, and their blocks have the same view. -/
def SameAnswer (r q : Block τ × List (DecodedRecord τ)) : Prop := r.1.SameView q.1 ∧ r.2 = q.2

section
variable {B C : Block τ} (h : B.SameView C)
include h

theorem Block.SameView.push (b : TimestampedByte τ) : SameAnswer (B.push b) (C.push b) :=
  have hp := process_of_windowView_eq h.view b
  ⟨⟨hp.1, h.acc, h.refused⟩, hp.2⟩

theorem Block.SameView.idle : SameAnswer B.idle C.idle := ⟨h, rfl⟩
theorem Block.SameView.crcClr : SameAnswer B.crcClr C.crcClr := ⟨⟨h.view, rfl, h.refused⟩, rfl⟩
theorem Block.SameView.crcUpd (d : Byte) : SameAnswer (B.crcUpd d) (C.crcUpd d) :=
  ⟨⟨h.view, congrArg (crc8Step · d) h.acc, h.refused⟩, rfl⟩
theorem Block.SameView.refuse : SameAnswer B.refuse C.refuse := ⟨⟨h.view, h.acc, rfl⟩, rfl⟩
theorem Block.SameView.reset : SameAnswer B.reset C.reset := ⟨⟨rfl, rfl, h.refused⟩, rfl⟩

theorem Block.SameView.onCommand (c : Command τ) : SameAnswer (B.onCommand c) (C.onCommand c) := by
  unfold Block.onCommand
  cases decodeCommand ⟨c.word, Timestamp.low, Timestamp.low⟩ with
  | push v a e => exact h.push (timestampedByte v c.tsStart c.tsEnd)
  | nop d => exact h.idle
  | crcClr d => exact h.crcClr
  | crcUpd d => exact h.crcUpd d
  | reserved010 d => exact h.refuse
  | reserved011 d => exact h.refuse
  | reserved110 d => exact h.refuse
  | reserved111 d => exact h.refuse

theorem Block.SameView.onPort (p : PortInput τ) : SameAnswer (B.onPort p) (C.onPort p) := by
  match p with
  | ⟨true, _⟩ => exact h.reset
  | ⟨false, none⟩ => exact h.idle
  | ⟨false, some c⟩ => exact h.onCommand c
end
end

/-- Two states whose blocks have the same view, with the same port values to come and the same records so far. -/
structure State.SameView (s s' : State) : Prop where
  block  : s.block.SameView s'.block
  inputs : s.inputs = s'.inputs
  log    : s.log = s'.log

theorem State.SameView.afterStep {s s' : State} (h : s.SameView s') :
    s.afterStep.SameView s'.afterStep ∧ s.afterStep.out = s'.afterStep.out := by
  have hpres : s.presented = s'.presented := by rw [State.presented, State.presented, h.inputs]
  obtain ⟨hblock, hout⟩ := h.block.onPort s.presented
  have hout' : s.afterStep.out = s'.afterStep.out := by simpa [State.afterStep, hpres] using hout
  refine ⟨⟨by simpa [State.afterStep, hpres] using hblock, by simp [State.afterStep, h.inputs], ?_⟩, hout'⟩
  show s.log ++ s.afterStep.out = s'.log ++ s'.afterStep.out
  rw [h.log, hout']

theorem State.SameView.iterate_afterStep {s s' : State} (h : s.SameView s') (k : Nat) :
    (State.afterStep^[k] s).SameView (State.afterStep^[k] s') := by
  induction k generalizing s s' with
  | zero => exact h
  | succ k ih => exact ih h.afterStep.1

/-- Settles O42: the step of R33 represents `process`, which is PUSH's effect on the window. -/
theorem boundedPushRefinesPush : Obligations.BoundedPushRefinesPush := by
  intro s r v a e h
  obtain ⟨hrec, hrep⟩ := boundedProcess_refines h ⟨v, a, e⟩
  exact ⟨_, exec_push s v a e, hrec, hrep⟩

/-- Settles O43: the view of the state, without what the window's view leaves out, is kept by every step. -/
theorem outputsDependOnlyOnTheWindowView : Obligations.OutputsDependOnlyOnTheWindowView := by
  intro s s' k hview hacc hrefused hin hlog
  have h (j : Nat) : (State.afterStep^[j] s).SameView (State.afterStep^[j] s') :=
    State.SameView.iterate_afterStep ⟨⟨hview, hacc, hrefused⟩, hin, hlog⟩ j
  refine ⟨_, _, run_eq_iterate k s, run_eq_iterate k s', (h k).block.view, (h k).block.acc, (h k).block.refused,
    (h k).log, fun hk => ?_⟩
  obtain ⟨j, rfl⟩ := Nat.exists_eq_succ_of_ne_zero hk.ne'
  simpa only [Function.iterate_succ_apply'] using (h j).afterStep.2

end Sys2Proof.Machine
end

section
/-! The CRC accumulator, the reset values and the status outputs (R28 to R30, R35). -/

namespace Sys2Proof.Machine

/-- A command reads `acc` only to write it (R29). -/
theorem Block.onCommand_with_acc {τ : Type} (c : Command τ) (B : Block τ) (x : Byte) :
    (Block.onCommand c { B with acc := x }).1.window = (B.onCommand c).1.window ∧
      (Block.onCommand c { B with acc := x }).1.refused = (B.onCommand c).1.refused ∧
      (Block.onCommand c { B with acc := x }).2 = (B.onCommand c).2 := by
  unfold Block.onCommand
  cases decodeCommand ⟨c.word, Timestamp.low, Timestamp.low⟩ <;> exact ⟨rfl, rfl, rfl⟩

/-- Settles O21: by the cases of a step, and because no command reads `acc` for anything else. -/
theorem accWrittenOnlyByTheCrcPort : Obligations.AccWrittenOnlyByTheCrcPort := by
  refine ⟨fun s t h => ?_, fun s => rfl, fun i x s t u ht hu => ?_⟩
  · obtain ⟨hr, rfl⟩ | ⟨hr, hexec⟩ := step_cases h
    · exact .inl ⟨hr, rfl⟩
    obtain ⟨⟨d, hi⟩, rfl⟩ | ⟨v, a, e, hi, rfl⟩ | ⟨⟨d, hi⟩, rfl⟩ | ⟨d, hi, rfl⟩ | ⟨hi, rfl⟩ := exec_cases hexec
    · exact .inr (.inr (.inr ⟨hr, by simp [hi], rfl⟩))
    · exact .inr (.inr (.inr ⟨hr, by simp [hi], rfl⟩))
    · exact .inr (.inl ⟨hr, ⟨d, hi⟩, rfl⟩)
    · exact .inr (.inr (.inl ⟨hr, d, hi, rfl⟩))
    · refine .inr (.inr (.inr ⟨hr, fun d => ⟨?_, ?_⟩, rfl⟩)) <;>
        · intro heq
          simp [heq, Instr.isReserved] at hi
  · rw [exec_eq_perform] at ht hu
    cases ht
    cases hu
    obtain ⟨hwindow, hrefused, hrecords⟩ := Block.onCommand_with_acc (encode i) s.block x
    exact ⟨hwindow, hrecords, congrArg (s.log ++ ·) hrecords, hrefused,
      congrArg (fun W => min W.length (2 ^ Config.lw - 1)) hwindow⟩

/-- The empty window is represented with any `fs` (R32, R35). -/
theorem represents_nil {τ : Type} (fs : τ) : BoundedWindow.Represents ⟨0, [], fs⟩ [] :=
  ⟨rfl, rfl, fun first h => by cases h⟩

theorem winLen_of_empty {s : State} (h : s.window = []) : s.winLen = 0 := by
  simp [State.winLen, State.winLenAt, h]

/-- Settles O12: the fields of `State.reset` and of the reset event. -/
theorem resetValues : Obligations.ResetValues :=
  ⟨rfl, rfl, rfl, winLen_of_empty rfl, rfl, represents_nil, State.applyReset_refused⟩

/-- R8's bound on `LW`. -/
theorem four_le_lw : 4 ≤ Config.lw := Nat.le_add_right 4 Config.lwExtra

/-- Settles O50: `win_len` is below `2 ^ LW`, and `2 ^ LW` is at least 16. -/
theorem statusOutputs : Obligations.StatusOutputs := by
  refine ⟨four_le_lw, fun s => ⟨rfl, rfl, ?_, fun h => ?_⟩⟩
  · have hpos : 0 < 2 ^ Config.lw := Nat.two_pow_pos _
    have hlt : s.winLen < 2 ^ Config.lw := by
      simp only [State.winLen, State.winLenAt]
      omega
    simp [State.winLenWires, Nat.mod_eq_of_lt hlt]
  · have h16 : 2 ^ 4 ≤ 2 ^ Config.lw := Nat.pow_le_pow_right (by decide) four_le_lw
    simp only [State.winLen, State.winLenAt]
    omega

end Sys2Proof.Machine
end

section
/-! Side effects and idempotency (R49), and the arithmetic of the scaled fields (R42, R138). -/

namespace Sys2Proof.Machine

/-! ### What repeating a command does -/

/-- PUSH never leaves the window as it was: it appends a byte, or empties a window that held at least nine. -/
theorem process_window_ne {τ : Type} (W : List (TimestampedByte τ)) (b : TimestampedByte τ) :
    (process W b).1 ≠ W := by
  obtain ⟨hkeep, -⟩ | ⟨hclear, bad, f, hW, -⟩ := process_window_cases W b
  · simp [hkeep]
  · rw [hclear]
    rintro rfl
    have hlen : 1 = bad.length + 10 := by simpa using congrArg List.length hW
    omega

/-- Settles O29: PUSH by `process_window_ne`; CRC_UPD of 0x01 from reset gives 0x07 and then 0x12. -/
theorem sideEffectsAndIdempotency : Obligations.SideEffectsAndIdempotency := by
  refine ⟨fun s v a e => ?_, ?_, fun d s => ?_, fun d s => ?_⟩
  · exact ⟨_, _, exec_push s v a e, exec_push _ v a e, process_window_ne _ _, process_window_ne _ _⟩
  · have honce : crc8Step 0x00#8 0x01#8 = 0x07#8 := by decide
    have htwice : crc8Step 0x07#8 0x01#8 = 0x12#8 := by decide
    refine ⟨0x01#8, State.reset, _, _, exec_crcUpd _ _, exec_crcUpd _ _, ?_⟩
    simp [State.reset, honce, htwice]
  · exact ⟨_, exec_nop s d, rfl, rfl, rfl⟩
  · exact ⟨_, _, exec_crcClr s d, exec_crcClr _ d, rfl, rfl, rfl⟩

/-! ### Scaled fields -/

/-- A pair of bytes is big-endian (R42). -/
theorem toNat_append_byte (hi lo : Byte) : (hi ++ lo : BitVec 16).toNat = hi.toNat * 256 + lo.toNat := by
  rw [BitVec.toNat_append, ← Nat.shiftLeft_add_eq_or_of_lt lo.isLt, Nat.shiftLeft_eq]

/-- R138: the product does not wrap. -/
theorem toNat_scaledField {τ : Type} (hi lo : TimestampedByte τ) :
    (scaledField hi lo).toNat = (hi.value.toNat * 256 + lo.value.toNat) * 10 := by
  have hhi := hi.value.isLt
  have hlo := lo.value.isLt
  rw [scaledField, BitVec.toNat_mul, BitVec.toNat_setWidth, toNat_append_byte, scale, BitVec.toNat_ofNat]
  omega

/-- Ten times is eight times and two times. -/
theorem mul_ten_eq_shifts (x : Word32) : x * 10#32 = (x <<< 3) + (x <<< 1) := by
  bv_omega

/-- Settles O52: the bounds follow from the exact value and the range of a byte. -/
theorem scaledFieldsAreBigEndianTimesTen : Obligations.ScaledFieldsAreBigEndianTimesTen := by
  intro τ hi lo
  have hscaled := toNat_scaledField hi lo
  have hhi := hi.value.isLt
  have hlo := lo.value.isLt
  exact ⟨toNat_append_byte _ _, hscaled, by omega, Dvd.intro_left _ hscaled.symm, by omega,
    mul_ten_eq_shifts _, fun p => ⟨rfl, rfl, rfl, rfl, rfl⟩⟩

end Sys2Proof.Machine
end

section
/-! The decoder and the encoder undo each other (R60 to R62); the opcode table (R61); the two-byte container (log 8).

The idea: a word is its two fields, `opField w ++ dataField w`, and decoding reads them off as the instruction's `op`
and `data`. So encoding gives the word back, and a word with the number of an instruction's fields decodes to it, up
to the side band, which is an operand of PUSH alone. -/

namespace Sys2Proof

open Machine

/-! ### The fields of a word as numbers -/

theorem toNat_word (op : BitVec 3) (d : Byte) : (op ++ d : CmdWord).toNat = 256 * op.toNat + d.toNat := by
  rw [BitVec.toNat_append, ← Nat.shiftLeft_add_eq_or_of_lt d.isLt, Nat.shiftLeft_eq]
  omega

theorem toNat_encodeWord (i : Instr) : (encodeWord i).toNat = 256 * i.op.toNat + i.data.toNat := toNat_word i.op i.data

theorem toNat_opField (w : CmdWord) : (opField w).toNat = w.toNat / 256 := by
  have h := w.isLt
  rw [opField, BitVec.extractLsb'_toNat, Nat.shiftRight_eq_div_pow]
  omega

theorem toNat_dataField (w : CmdWord) : (dataField w).toNat = w.toNat % 256 := by
  rw [dataField, BitVec.extractLsb'_toNat, Nat.shiftRight_zero]

/-- R60: `cmd = {op, data}`. -/
theorem opField_append_dataField (w : CmdWord) : opField w ++ dataField w = w := by
  apply BitVec.eq_of_toNat_eq
  rw [toNat_word, toNat_opField, toNat_dataField]
  omega

/-! ### Decoding a command -/

/-- The three bits on which the decoder branches are the selector. -/
theorem opField_eq_of_getLsbD {w : CmdWord} {op : BitVec 3} (h10 : w.getLsbD 10 = op.getLsbD 2)
    (h9 : w.getLsbD 9 = op.getLsbD 1) (h8 : w.getLsbD 8 = op.getLsbD 0) : opField w = op := by
  apply BitVec.eq_of_getLsbD_eq
  intro k hk
  rw [opField, BitVec.getLsbD_extractLsb']
  match k, hk with
  | 0, _ => simpa using h8
  | 1, _ => simpa using h9
  | 2, _ => simpa using h10

theorem opField_word_eq_op (c : Command Timestamp) : opField c.word = (decodeCommand c).op := by
  unfold decodeCommand
  split <;> apply opField_eq_of_getLsbD <;> simpa [Instr.op]

theorem dataField_word_eq_data (c : Command Timestamp) : dataField c.word = (decodeCommand c).data := by
  unfold decodeCommand
  split <;> rfl

/-- Encoding what was decoded gives the word back. -/
theorem encodeWord_decodeCommand (c : Command Timestamp) : encodeWord (decodeCommand c) = c.word := by
  rw [encodeWord, ← opField_word_eq_op, ← dataField_word_eq_data, opField_append_dataField]

/-- The instruction with other timestamps on the side band: an operand of PUSH alone (R60, R62). -/
def Instr.withSideBand (a e : Timestamp) : Instr → Instr
  | .push v _ _     => .push v a e
  | .nop d          => .nop d
  | .reserved010 d  => .reserved010 d
  | .reserved011 d  => .reserved011 d
  | .crcClr d       => .crcClr d
  | .crcUpd d       => .crcUpd d
  | .reserved110 d  => .reserved110 d
  | .reserved111 d  => .reserved111 d

@[simp] theorem Instr.mnemonic_withSideBand (a e : Timestamp) (i : Instr) :
    (i.withSideBand a e).mnemonic = i.mnemonic := by
  cases i <;> rfl

theorem decodeCommand_sideBand (c : Command Timestamp) (a e : Timestamp) :
    decodeCommand ⟨c.word, a, e⟩ = (decodeCommand c).withSideBand a e := by
  unfold decodeCommand
  cases c.word.getLsbD 10 <;> cases c.word.getLsbD 9 <;> cases c.word.getLsbD 8 <;> rfl

@[simp] theorem word_encode (i : Instr) : (encode i).word = encodeWord i := by
  cases i <;> rfl

theorem decodeCommand_encodeWord (i : Instr) (a e : Timestamp) :
    decodeCommand ⟨encodeWord i, a, e⟩ = i.withSideBand a e := by
  have h := decodeCommand_sideBand (encode i) a e
  rwa [word_encode, decodeCommand_encode] at h

/-- A word with the number of an instruction's fields decodes to it. -/
theorem decodeCommand_of_toNat {c : Command Timestamp} {i : Instr}
    (h : c.word.toNat = 256 * i.op.toNat + i.data.toNat) :
    decodeCommand c = i.withSideBand c.tsStart c.tsEnd := by
  have hw : c.word = encodeWord i := BitVec.eq_of_toNat_eq (by rw [h, toNat_encodeWord])
  rw [← decodeCommand_encodeWord, ← hw]

/-! ### The two-byte container -/

section
variable {lo hi : Byte} (rest : List Byte) (a e : Timestamp)

theorem decodeBytes_of_lt (h : hi.toNat < 8) :
    decodeBytes (lo :: hi :: rest) a e =
      .ok (decodeCommand ⟨BitVec.ofNat 11 (hi.toNat * 256 + lo.toNat), a, e⟩, rest) := if_pos h

theorem decodeBytes_of_le (h : 8 ≤ hi.toNat) : decodeBytes (lo :: hi :: rest) a e = .error .bitsAboveTen :=
  if_neg (Nat.not_lt.mpr h)
end

/-- The bytes that hold a word's two fields are the container of its instruction. -/
theorem encodeBytes_decodeCommand {lo hi : Byte} (h : hi.toNat < 8) (a e : Timestamp) :
    encodeBytes (decodeCommand ⟨BitVec.ofNat 11 (hi.toNat * 256 + lo.toNat), a, e⟩) = [lo, hi] := by
  have hlo := lo.isLt
  have hword : (BitVec.ofNat 11 (hi.toNat * 256 + lo.toNat)).toNat = hi.toNat * 256 + lo.toNat := by
    rw [BitVec.toNat_ofNat]
    omega
  have hlow : dataField (BitVec.ofNat 11 (hi.toNat * 256 + lo.toNat)) = lo := by
    apply BitVec.eq_of_toNat_eq
    rw [toNat_dataField, hword]
    omega
  have hhigh : (opField (BitVec.ofNat 11 (hi.toNat * 256 + lo.toNat))).setWidth 8 = hi := by
    apply BitVec.eq_of_toNat_eq
    rw [BitVec.toNat_setWidth, toNat_opField, hword]
    omega
  rw [encodeBytes, ← opField_word_eq_op, ← dataField_word_eq_data, hlow, hhigh]

theorem decodeBytes_encodeBytes (i : Instr) (rest : List Byte) :
    decodeBytes (encodeBytes i ++ rest) (encode i).tsStart (encode i).tsEnd = .ok (i, rest) := by
  have hop := i.op.isLt
  have hhi : (i.op.setWidth 8).toNat = i.op.toNat := by
    rw [BitVec.toNat_setWidth]
    omega
  have hword : BitVec.ofNat 11 ((i.op.setWidth 8).toNat * 256 + i.data.toNat) = (encode i).word := by
    rw [hhi, word_encode, Nat.mul_comm, ← toNat_encodeWord, BitVec.ofNat_toNat, BitVec.setWidth_eq]
  have hdecode := decodeBytes_of_lt (lo := i.data) rest (encode i).tsStart (encode i).tsEnd (hhi.trans_lt hop)
  rwa [hword, decodeCommand_encode] at hdecode

/-! ### The opcode table -/

/-- The row that an instruction stands for. -/
def Instr.row (i : Instr) : OpRow := ⟨i.mnemonic, i.op ++ 0#8, 0x700#11⟩

theorem Instr.row_mem_opcodeTable (i : Instr) : i.row ∈ opcodeTable := by
  cases i <;> simp [opcodeTable, Instr.row, Instr.mnemonic, Instr.op]

theorem mask_of_mem_opcodeTable : ∀ r ∈ opcodeTable, r.mask = 0x700#11 := by decide

/-- No two rows have the same pattern. -/
theorem opcodeTable_pattern_injective :
    ∀ r ∈ opcodeTable, ∀ r' ∈ opcodeTable, r.pattern = r'.pattern → r = r' := by decide

theorem and_mask (w : CmdWord) : w &&& 0x700#11 = opField w ++ 0#8 := by
  calc w &&& 0x700#11 = (opField w ++ dataField w) &&& (BitVec.allOnes 3 ++ 0#8) := by
        rw [opField_append_dataField]; rfl
    _ = opField w ++ 0#8 := by rw [BitVec.and_append, BitVec.and_allOnes, BitVec.and_zero]

/-- A row of the table holds the words whose selector is the row's. -/
theorem holds_iff_of_mem_opcodeTable {r : OpRow} (hr : r ∈ opcodeTable) (w : CmdWord) :
    r.holds w = true ↔ opField w ++ 0#8 = r.pattern := by
  rw [OpRow.holds, mask_of_mem_opcodeTable r hr, and_mask, beq_iff_eq]

/-! ### The obligations -/

/-- Settles O1: each word is the number of its row's instruction. -/
theorem opcodeMapWordsDecode : Obligations.OpcodeMapWordsDecode := fun a e =>
  ⟨decodeCommand_of_toNat (i := .nop 0x00#8) rfl, decodeCommand_of_toNat (i := .push 0x19#8 a e) rfl,
    decodeCommand_of_toNat (i := .reserved010 0xAB#8) rfl, decodeCommand_of_toNat (i := .reserved011 0x01#8) rfl,
    decodeCommand_of_toNat (i := .crcClr 0x00#8) rfl, decodeCommand_of_toNat (i := .crcUpd 0x30#8) rfl,
    decodeCommand_of_toNat (i := .reserved110 0x00#8) rfl, decodeCommand_of_toNat (i := .reserved111 0xFF#8) rfl⟩

/-- Settles O2: the number of each row's word is that of the instruction's fields. -/
theorem opFieldSelectsTheOperation : Obligations.OpFieldSelectsTheOperation := by
  intro c op d _ hd hw
  have hdata : (BitVec.ofNat 8 d).toNat = d := by
    rw [BitVec.toNat_ofNat]
    omega
  have hdecode (i : Instr) (hop : op = i.op.toNat) (hi : i.data = BitVec.ofNat 8 d) :
      decodeCommand c = i.withSideBand c.tsStart c.tsEnd :=
    decodeCommand_of_toNat (by rw [hw, hop, hi, hdata])
  exact ⟨fun h => hdecode (.nop _) h rfl, fun h => hdecode (.push _ c.tsStart c.tsEnd) h rfl,
    fun h => hdecode (.reserved010 _) h rfl, fun h => hdecode (.reserved011 _) h rfl,
    fun h => hdecode (.crcClr _) h rfl, fun h => hdecode (.crcUpd _) h rfl,
    fun h => hdecode (.reserved110 _) h rfl, fun h => hdecode (.reserved111 _) h rfl⟩

/-- Settles O3, from the port and from the container. -/
theorem decodeOfEncodeIsTheInstruction : Obligations.DecodeOfEncodeIsTheInstruction :=
  fun i => ⟨decodeCommand_encode i, decodeBytes_encodeBytes i⟩

/-- Settles O4: a word is its two fields, and the container admits just the bytes that hold two fields. -/
theorem encodeOfDecodeIsTheWord : Obligations.EncodeOfDecodeIsTheWord := by
  refine ⟨encodeWord_decodeCommand, fun lo hi rest a e i left h => ?_⟩
  obtain hlt | hge := Nat.lt_or_ge hi.toNat 8
  · rw [decodeBytes_of_lt rest a e hlt] at h
    cases h
    exact ⟨encodeBytes_decodeCommand hlt a e, rfl⟩
  · rw [decodeBytes_of_le rest a e hge] at h
    cases h

/-- Settles O5: the row of the decoded instruction, which is the one whose pattern has the word's selector. -/
theorem opcodeTableRowsPartitionTheWords : Obligations.OpcodeTableRowsPartitionTheWords := by
  intro w
  have hmem := (decodeCommand ⟨w, Timestamp.low, Timestamp.low⟩).row_mem_opcodeTable
  have hpattern : opField w ++ 0#8 = (decodeCommand ⟨w, Timestamp.low, Timestamp.low⟩).row.pattern := by
    rw [Instr.row, ← opField_word_eq_op]
  refine ⟨_, hmem, (holds_iff_of_mem_opcodeTable hmem w).mpr hpattern, fun r' hr' hholds => ?_, fun a e => ?_⟩
  · have hpattern' := (holds_iff_of_mem_opcodeTable hr' w).mp hholds
    exact opcodeTable_pattern_injective r' hr' _ hmem (hpattern'.symm.trans hpattern)
  · rw [decodeCommand_sideBand ⟨w, Timestamp.low, Timestamp.low⟩ a e]
    exact Instr.mnemonic_withSideBand a e _

/-- Settles O6, by the cases of `decodeBytes`. -/
theorem decodeBytesRefusesByName : Obligations.DecodeBytesRefusesByName := by
  intro bs a e
  match bs with
  | [] => simp [decodeBytes]
  | [_] => simp [decodeBytes]
  | lo :: hi :: rest =>
    obtain hlt | hge := Nat.lt_or_ge hi.toNat 8
    · simp [decodeBytes_of_lt rest a e hlt, hlt]
    · simp [decodeBytes_of_le rest a e hge, hge]

end Sys2Proof
end

section
/-! Records in serial form (R64 to R66), and the result bundle of a step (R67, R68, R153).

The idea for the bundle: a step emits either nothing or the records of the one frame that it confirms, and the bundle of
each of the two is known. -/

namespace Sys2Proof.Machine

/-! ### The serial form -/

section
variable {τ : Type}

/-- Reading back the serial form; only a Temperature value has another width there, and it is wide enough. -/
theorem DecodedRecord.record_serial (r : DecodedRecord τ) : r.serial.record = some r := by
  cases r with
  | temperature v a e =>
    have hlt : v.toNat % 2 ^ 32 < 256 := by
      have hv := v.isLt
      omega
    simpa [serial, SerialRecord.record] using hlt
  | checksumResult v a e =>
    cases v
    rfl
  | voltage | current | consumption | rpm | badSpan => rfl

/-- R64: tag 7 is never emitted. -/
theorem DecodedRecord.serial_tag_ne_seven (r : DecodedRecord τ) : r.serial.tag ≠ 7#3 := by
  cases r <;> simp [serial]

/-- A serial form that stands for a record is that record's. -/
theorem SerialRecord.serial_of_record {x : SerialRecord τ} {r : DecodedRecord τ} (h : x.record = some r) :
    r.serial = x := by
  obtain ⟨tag, value, start, stop⟩ := x
  have htag {k : Nat} (hk : tag.toNat = k) : tag = BitVec.ofNat 3 k := by
    rw [← hk, BitVec.ofNat_toNat, BitVec.setWidth_eq]
  unfold SerialRecord.record at h
  split at h <;> rename_i hk
  case h_8 => cases h
  case h_1 =>
    obtain ⟨hlt, hr⟩ := Option.ite_none_right_eq_some.mp h
    cases hr
    change value.toNat < 256 at hlt
    have hvalue : (value.setWidth 8).setWidth 32 = value := by
      apply BitVec.eq_of_toNat_eq
      rw [BitVec.toNat_setWidth, BitVec.toNat_setWidth]
      omega
    rw [htag hk, DecodedRecord.serial, hvalue]
  case h_6 | h_7 =>
    obtain ⟨rfl, hr⟩ := Option.ite_none_right_eq_some.mp h
    cases hr
    rw [htag hk]
    rfl
  all_goals
    cases h
    rw [htag hk]
    rfl
end

/-- Settles O7: the serial form by kind, reading it back, and writing what was read. -/
theorem serialFormCarriesTheSameInformation : Obligations.SerialFormCarriesTheSameInformation :=
  ⟨fun τ v x a e => ⟨by simp [DecodedRecord.serial], rfl, rfl, rfl, rfl, rfl, rfl⟩,
    fun τ r => ⟨r.record_serial, r.serial_tag_ne_seven⟩, fun τ x r => SerialRecord.serial_of_record⟩

/-! ### The bundle -/

theorem step_log {s t : State} (h : step s = .next t) : t.log = s.log ++ t.out := by
  rw [step_eq_perform] at h
  cases h
  rfl

/-- The step pushed `b`, which completed the ten elements `f` after `bad`, and they pass (R100). -/
def State.Confirms (s : State) (b : TimestampedByte Timestamp) (bad : List (TimestampedByte Timestamp))
    (f : Frame Timestamp) : Prop :=
  s.presented.pushed = some b ∧ s.window ++ [b] = bad ++ f.toList ∧ f.passes = true

/-- A confirmed frame's records, or none where no frame is confirmed. -/
theorem step_out_cases {s t : State} (h : step s = .next t) :
    (t.out = [] ∧ ∀ b bad f, ¬ s.Confirms b bad f) ∨ ∃ b bad f, s.Confirms b bad f ∧ t.out = frameRecords bad f := by
  obtain ⟨-, hnone, -, hout⟩ | ⟨-, hnone, -, hout⟩ | ⟨b, -, hpushed, rfl⟩ := step_sync_cases h
  · exact .inl ⟨hout, by simp [State.Confirms, hnone]⟩
  · exact .inl ⟨hout, by simp [State.Confirms, hnone]⟩
  · obtain ⟨hkeep, hfail⟩ | ⟨-, bad, f, hW, hpass⟩ := process_window_cases s.window b
    · refine .inl ⟨by simp [hkeep], fun b' bad f hc => ?_⟩
      obtain ⟨hb, hW, hpass⟩ := hc
      obtain rfl : b = b' := Option.some.inj (hpushed.symm.trans hb)
      simp [hfail bad f hW] at hpass
    · exact .inr ⟨b, bad, f, ⟨hpushed, hW, hpass⟩, by simp [process_of_split hW, hpass]⟩

/-- R68: the bundle stands for the step's records. -/
theorem step_bundle_records {s t : State} (h : step s = .next t) : t.bundle.records = t.out := by
  obtain ⟨hout, -⟩ | ⟨b, bad, f, -, hout⟩ := step_out_cases h
  · rw [bundle_of_no_records hout, undrivenBundle_records, hout]
  · exact (bundle_of_frame hout).2.2

/-- R67: `res_valid` marks the steps that confirm a frame. -/
theorem step_resValid_iff {s t : State} (h : step s = .next t) :
    t.bundle.resValid = true ↔ ∃ b bad f, s.Confirms b bad f := by
  obtain ⟨hout, hnone⟩ | ⟨b, bad, f, hc, hout⟩ := step_out_cases h
  · simp [bundle_of_no_records hout, hnone]
  · exact iff_of_true (bundle_of_frame hout).1 ⟨b, bad, f, hc⟩

/-- R67: `bad_valid` marks those of them with a lead-in, that is with ten elements before the step. -/
theorem step_badValid_iff {s t : State} (h : step s = .next t) :
    t.bundle.badValid = true ↔ t.bundle.resValid = true ∧ 10 ≤ s.window.length := by
  obtain ⟨hout, -⟩ | ⟨b, bad, f, ⟨-, hW, -⟩, hout⟩ := step_out_cases h
  · simp [bundle_of_no_records hout]
  · obtain ⟨hres, hbad, -⟩ := bundle_of_frame hout
    have hlen : s.window.length + 1 = bad.length + 10 := by simpa using congrArg List.length hW
    rw [hbad, ← List.length_pos_iff]
    exact ⟨fun hpos => ⟨hres, by omega⟩, fun hlong => by omega⟩

/-- Settles O48: each clause reads off the records for which the bundle stands. -/
theorem bundleStandsForTheRecords : Obligations.BundleStandsForTheRecords := by
  intro s t h
  have hrecords := step_bundle_records h
  refine ⟨hrecords, by rw [hrecords, step_log h], fun hnone => ?_, records_of_not_resValid, fun hres => ?_⟩
  · apply records_of_not_resValid
    rw [← Bool.not_eq_true, step_resValid_iff h]
    rintro ⟨b, bad, f, hpushed, -⟩
    simp [hnone] at hpushed
  · rw [← hrecords, ResultBundle.records, if_pos hres]

/-- Settles O49: a confirmed frame drives the valid bits, and a step without records leaves them 0. -/
theorem validBitsMarkConfirmedFrames : Obligations.ValidBitsMarkConfirmedFrames := by
  intro s t h
  refine ⟨?_, step_badValid_iff h⟩
  simpa only [State.Confirms, Frame.passes_iff] using step_resValid_iff h

end Sys2Proof.Machine
end

section
/-! What a program's lines and pseudo-instructions put on the port (R72, R73), and a step on a presented command or
none (R60). -/

namespace Sys2Proof.Machine

/-! ### Lines -/

/-- Settles O8: the words are `{op, data}` in number. -/
theorem assemblerLinesOnThePort : Obligations.AssemblerLinesOnThePort :=
  ⟨rfl, fun v _ _ => ⟨_, rfl, toNat_word 0b001#3 v⟩, rfl, fun v => ⟨_, rfl, toNat_word 0b101#3 v⟩, rfl⟩

/-! ### Single steps -/

/-- Settles O9: the step takes the command off the list and decodes it. -/
theorem stepRunsTheDecodedCommand : Obligations.StepRunsTheDecodedCommand := by
  rintro s c _ rest hin rfl
  exact step_of_cons hin

/-- Settles O10: NOP ignores its data. -/
theorem stepWithoutCommandIsNop : Obligations.StepWithoutCommandIsNop := by
  refine fun s d => ⟨fun rest hin => ?_, fun hin => ?_⟩
  · rw [step_of_cons hin, exec_nop]
    rfl
  · rw [step_of_nil hin, exec_nop]
    rfl

/-! ### Pseudo-instructions -/

/-- FRAME pushes its payload and then the payload's CRC (R73). -/
theorem assemble_frame (p : Payload Timestamp) (s9 e9 : Timestamp) :
    assemble [.frame p s9 e9] = pushInputs (p.toList ++ [timestampedByte (crc8 (vals p.toList)) s9 e9]) := rfl

/-- CRC8 clears the accumulator and then absorbs its bytes (R73). -/
theorem assemble_crc8 (bytes : List Byte) :
    assemble [.crc8 bytes] = AsmLine.crcClr.portInput :: bytes.map fun v => (AsmLine.crcUpd v).portInput := by
  simp [assemble, AsmStatement.expand]

@[simp] theorem Block.onPort_crcClrLine (B : Block Timestamp) : B.onPort AsmLine.crcClr.portInput = B.crcClr := rfl

@[simp] theorem Block.onPort_crcUpdLine (v : Byte) (B : Block Timestamp) :
    B.onPort (AsmLine.crcUpd v).portInput = B.crcUpd v := by
  show B.onCommand (encode (.crcUpd v)) = _
  rw [Block.onCommand_of_decode, decodeCommand_encode]

/-- CRC_UPDs fold their bytes into the accumulator and do nothing else (R86). -/
theorem Block.run_crcUpdLines (bytes : List Byte) (B : Block Timestamp) :
    Block.run (bytes.map fun v => (AsmLine.crcUpd v).portInput) B =
      ({ B with acc := bytes.foldl crc8Step B.acc }, []) := by
  induction bytes generalizing B with
  | nil => rfl
  | cons v vs ih =>
    rw [List.map_cons, Block.run_cons, Block.onPort_crcUpdLine, ih]
    rfl

/-- CRC8 leaves `crc8` of its bytes in the accumulator (R73). -/
theorem Block.run_assemble_crc8 (bytes : List Byte) (B : Block Timestamp) :
    Block.run (assemble [.crc8 bytes]) B = ({ B with acc := crc8 bytes }, []) := by
  rw [assemble_crc8, Block.run_cons, Block.onPort_crcClrLine, Block.run_crcUpdLines]
  rfl

/-- Fewer than ten elements hold no window of ten (R102). -/
theorem noWindowMatches_of_length_lt {τ : Type} {W : List (TimestampedByte τ)} (h : W.length < 10) :
    NoWindowMatches W := by
  intro j hj h10
  omega

/-- Nine pushes onto an empty window wait for the tenth (R111). -/
theorem run_payload {s : State} {p : Payload Timestamp} {rest : List (PortInput Timestamp)} (hs : s.window = [])
    (hin : s.inputs = pushInputs p.toList ++ rest) :
    ∃ u, run 9 s = .next u ∧ u.window = p.toList ∧ u.log = s.log ∧ u.inputs = rest := by
  have hpush := Block.run_pushInputs_of_noWindowMatches (B := s.block) (bs := p.toList)
    (noWindowMatches_of_length_lt (by simp [hs]))
  have hrun := run_eq_iterate (pushInputs p.toList).length s
  obtain ⟨hblock, hlog⟩ := run_block_log hin hrun
  rw [hpush] at hblock hlog
  refine ⟨_, hrun, by simpa [hs] using congrArg Block.window hblock, by simpa using hlog, ?_⟩
  rw [State.iterate_afterStep_inputs, hin, List.drop_left]

/-- A step on the line `PUSH b`. -/
theorem step_of_pushLine {s : State} {b : TimestampedByte Timestamp} {rest : List (PortInput Timestamp)}
    (h : s.inputs = (pushLine b).portInput :: rest) : step s = .next (s.taken.perform (Block.push b)) := by
  rw [step_eq_perform, State.presented_cons h, funext (Block.onPort_pushLine b)]

/-- The push of its CRC onto a frame's payload confirms the frame (R101). -/
theorem process_payload_crc {τ : Type} (p : Payload τ) (s9 e9 : τ) :
    process p.toList (timestampedByte (crc8 (vals p.toList)) s9 e9) =
      ([], decodePayload p ++ [.checksumResult .good s9 e9]) := by
  have hframe : p.toList ++ [timestampedByte (crc8 (vals p.toList)) s9 e9] =
      [] ++ Frame.toList ⟨p, timestampedByte (crc8 (vals p.toList)) s9 e9⟩ := rfl
  rw [process_of_split hframe, if_pos ((Frame.passes_iff _).mpr rfl)]
  rfl

/-- Settles O59: FRAME by its payload and then its CRC byte, CRC8 by the block's run. -/
theorem pseudoInstructionsDoWhatTheySay : Obligations.PseudoInstructionsDoWhatTheySay := by
  constructor
  · intro s p s9 e9 rest hs hin
    have hsplit : s.inputs = pushInputs p.toList ++
        (pushLine (timestampedByte (crc8 (vals p.toList)) s9 e9)).portInput :: rest := by
      simpa [assemble_frame, pushInputs] using hin
    obtain ⟨u, hrun, hwindow, hlog, hinputs⟩ := run_payload hs hsplit
    refine ⟨_, (run_add_of_run hrun 1).trans (run_succ_of_step (step_of_pushLine hinputs) 0), ?_⟩
    simp [hwindow, process_payload_crc, hlog, hinputs]
  · intro s bytes rest hin
    have hlen : (assemble [.crc8 bytes]).length = bytes.length + 1 := by simp [assemble_crc8]
    obtain ⟨hblock, hlog⟩ := run_block_log hin (run_eq_iterate (assemble [.crc8 bytes]).length s)
    rw [Block.run_assemble_crc8] at hblock hlog
    refine ⟨_, run_eq_iterate _ s, ?_⟩
    rw [← hlen]
    exact ⟨congrArg Block.acc hblock, congrArg Block.window hblock, by simpa using hlog,
      by simp [State.iterate_afterStep_inputs, hin]⟩

end Sys2Proof.Machine
end

section
/-! The CRC itself (R80, R81, R83, R84).

The idea: an iteration is linear over exclusive or and sends only 0 to 0, so each step is a bijection in each argument,
and the CRC of a sequence is linear in its bytes. -/

namespace Sys2Proof.Machine

/-! ### One step -/

theorem crcShifts_eq_iterate (n : Nat) (r : Byte) : crcShifts n r = crcShift^[n] r := by
  induction n generalizing r with
  | zero => rfl
  | succ n ih => exact ih (crcShift r)

theorem crcShift_of_set {r : Byte} (h : r.getLsbD 7 = true) : crcShift r = (r <<< 1) ^^^ crcPoly := if_pos h

theorem crcShift_of_clear {r : Byte} (h : r.getLsbD 7 = false) : crcShift r = r <<< 1 := by
  rw [crcShift, h, if_neg Bool.false_ne_true]

theorem getLsbD_shiftLeft_one_succ (r : Byte) {i : Nat} (h : i + 1 < 8) :
    (r <<< 1).getLsbD (i + 1) = r.getLsbD i := by
  rw [BitVec.getLsbD_shiftLeft]
  simp [h]

/-- With bit 7 set, the polynomial sets bit 0; else the shift loses no bit. -/
theorem crcShift_eq_zero_iff {r : Byte} : crcShift r = 0x00#8 ↔ r = 0x00#8 := by
  refine ⟨fun h => ?_, by rintro rfl; rfl⟩
  cases h7 : r.getLsbD 7 with
  | true =>
    rw [crcShift_of_set h7] at h
    simpa [crcPoly] using congrArg (BitVec.getLsbD · 0) h
  | false =>
    rw [crcShift_of_clear h7] at h
    apply BitVec.eq_of_getLsbD_eq
    intro i hi
    obtain rfl | hlt : i = 7 ∨ i + 1 < 8 := by omega
    · exact h7
    · rw [← getLsbD_shiftLeft_one_succ r hlt, h, BitVec.getLsbD_zero, BitVec.getLsbD_zero]

theorem crcShifts_eq_zero_iff (n : Nat) {r : Byte} : crcShifts n r = 0x00#8 ↔ r = 0x00#8 := by
  induction n generalizing r with
  | zero => exact Iff.rfl
  | succ n ih => exact ih.trans crcShift_eq_zero_iff

theorem crc8Step_eq_zero_iff {c b : Byte} : crc8Step c b = 0x00#8 ↔ b = c := by
  rw [crc8Step, crcShifts_eq_zero_iff, BitVec.xor_eq_zero_iff, eq_comm]

@[simp] theorem crc8Step_self (c : Byte) : crc8Step c c = 0x00#8 := crc8Step_eq_zero_iff.mpr rfl

theorem crc8Step_xor (c d a b : Byte) : crc8Step (c ^^^ d) (a ^^^ b) = crc8Step c a ^^^ crc8Step d b := by
  have hswap : (c ^^^ d) ^^^ (a ^^^ b) = (c ^^^ a) ^^^ (d ^^^ b) := by ac_rfl
  rw [crc8Step, hswap, crcShifts_xor]
  rfl

/-- The one-byte table `T8` is the eight shifts (R83). -/
theorem crc8_singleton (y : Byte) : crc8 [y] = crcShifts 8 y := by
  show crcShifts 8 (0x00#8 ^^^ y) = _
  rw [BitVec.zero_xor]

/-! ### A sequence -/

@[simp] theorem crc8_zero_cons (bs : List Byte) : crc8 (0x00#8 :: bs) = crc8 bs := by
  show bs.foldl crc8Step (crc8Step 0x00#8 0x00#8) = _
  rw [crc8Step_self]
  rfl

theorem crc8_replicate_zero (n : Nat) : crc8 (List.replicate n 0x00#8) = 0x00#8 := by
  induction n with
  | zero => rfl
  | succ n ih => rw [List.replicate_succ, crc8_zero_cons, ih]

theorem foldl_crc8Step_xor {as bs : List Byte} (h : as.length = bs.length) (c d : Byte) :
    (List.zipWith (· ^^^ ·) as bs).foldl crc8Step (c ^^^ d) = as.foldl crc8Step c ^^^ bs.foldl crc8Step d := by
  induction as generalizing bs c d with
  | nil =>
    obtain rfl := List.eq_nil_of_length_eq_zero h.symm
    rfl
  | cons a as ih =>
    cases bs with
    | nil => cases h
    | cons b bs =>
      rw [List.zipWith_cons_cons, List.foldl_cons, crc8Step_xor]
      exact ih (Nat.succ.inj h) _ _

theorem crc8_singleton_injective : Function.Injective fun y : Byte => crc8 [y] := by
  intro x y h
  simp only [crc8_singleton] at h
  have hzero : crcShifts 8 (x ^^^ y) = 0x00#8 := by rw [crcShifts_xor, h, BitVec.xor_self]
  exact BitVec.xor_eq_zero_iff.mp ((crcShifts_eq_zero_iff 8).mp hzero)

theorem crc8_append_singleton_eq_zero_iff {P : List Byte} {c : Byte} : crc8 (P ++ [c]) = 0x00#8 ↔ c = crc8 P := by
  rw [crc8_append_singleton, crc8Step_eq_zero_iff]

/-- Settles O53: `crcShifts` iterates the shift, whose polynomial is 0x07. -/
theorem crcStepIsEightShifts : Obligations.CrcStepIsEightShifts :=
  ⟨fun c b => crcShifts_eq_iterate 8 (c ^^^ b), crc8Step_self, crc8Step_self _, by decide⟩

/-- Settles O54: `crc8` folds `crc8Step` from 0x00. -/
theorem crcOfASequence : Obligations.CrcOfASequence :=
  ⟨crc8_nil, crc8_append_singleton, crc8_replicate_zero, by decide +kernel⟩

/-- Settles O56: the table is injective on a finite type, so it is a bijection. -/
theorem crcAlgebra : Obligations.CrcAlgebra := by
  refine ⟨fun as bs h => foldl_crc8Step_xor h crcInit crcInit, crc8_zero_cons, fun c b => (crc8_singleton _).symm,
    Finite.injective_iff_bijective.mp crc8_singleton_injective, fun y => ?_⟩
  rw [crc8_singleton, crcShifts_eq_zero_iff]

/-- Settles O57: a step gives 0 just where the byte is the CRC so far. -/
theorem crcResidue : Obligations.CrcResidue := by
  refine ⟨fun bs => crc8_append_singleton_eq_zero_iff.mpr rfl, fun P c => crc8_append_singleton_eq_zero_iff,
    fun τ f => ?_⟩
  have hvals : vals f.toList = vals f.payload.toList ++ [f.crcByte.value] := vals_append _ _
  rw [hvals, crc8_append_singleton_eq_zero_iff, Frame.passes_iff, eq_comm]

end Sys2Proof.Machine
end

section
/-! `crc8` as a remainder (R82).

The idea: where the generator is 0, an iteration of R80 multiplies the polynomial of the register by `X`, because
`X ^ 8` is then the polynomial of 0x07. So `crc8` and the message times `X ^ 8` agree there, and a byte's polynomial is
its own remainder. -/

namespace Sys2Proof.Machine

open Polynomial

/-- The bits of a byte as a polynomial, bit `i` at `X ^ i` (R82). -/
noncomputable def bytePoly (b : Byte) : (ZMod 2)[X] := ∑ i ∈ Finset.range 8, if b.getLsbD i then X ^ i else 0

/-- `M(x)`: the bits of a byte sequence as a polynomial, first byte highest (R82). -/
noncomputable def messagePoly (bs : List Byte) : (ZMod 2)[X] := bs.foldl (fun M b => M * X ^ 8 + bytePoly b) 0

/-- The generator of R82. -/
noncomputable def crcGenerator : (ZMod 2)[X] := X ^ 8 + X ^ 2 + X + 1

theorem crcGenerator_monic : crcGenerator.Monic := by
  unfold crcGenerator
  monicity!

theorem crcGenerator_degree : crcGenerator.degree = 8 := by
  unfold crcGenerator
  compute_degree!

theorem messagePoly_append_singleton (bs : List Byte) (b : Byte) :
    messagePoly (bs ++ [b]) = messagePoly bs * X ^ 8 + bytePoly b := by
  simp [messagePoly]

/-! ### The polynomial of a byte -/

theorem bytePoly_degree_lt (b : Byte) : (bytePoly b).degree < 8 := by
  refine mem_degreeLT.mp (Submodule.sum_mem _ fun i hi => ?_)
  split
  · rw [mem_degreeLT, degree_X_pow]
    exact_mod_cast Finset.mem_range.mp hi
  · exact Submodule.zero_mem _

/-- Exclusive or is addition over GF(2). -/
theorem bytePoly_xor (a b : Byte) : bytePoly (a ^^^ b) = bytePoly a + bytePoly b := by
  rw [bytePoly, bytePoly, bytePoly, ← Finset.sum_add_distrib]
  refine Finset.sum_congr rfl fun i _ => ?_
  rw [BitVec.getLsbD_xor]
  cases a.getLsbD i <;> cases b.getLsbD i <;> simp [CharTwo.add_self_eq_zero]

/-- A shift multiplies by `X`, but loses bit 7. -/
theorem X_mul_bytePoly (r : Byte) : X * bytePoly r = bytePoly (r <<< 1) + if r.getLsbD 7 then X ^ 8 else 0 := by
  rw [bytePoly, bytePoly, Finset.sum_range_succ, Finset.sum_range_succ' _ 7, mul_add, Finset.mul_sum]
  congr 1
  · have hlow : (r <<< 1).getLsbD 0 = false := by simp
    rw [hlow, if_neg Bool.false_ne_true, add_zero]
    refine Finset.sum_congr rfl fun k hk => ?_
    rw [getLsbD_shiftLeft_one_succ r (Nat.succ_lt_succ (Finset.mem_range.mp hk)), mul_ite, mul_zero, ← pow_succ']
  · rw [mul_ite, mul_zero, ← pow_succ']

theorem bytePoly_crcPoly : bytePoly crcPoly = X ^ 2 + X + 1 := by
  simp [bytePoly, crcPoly, Finset.sum_range_succ]
  ring

/-! ### Where the generator is 0 -/

/-- The value of a polynomial where the generator is 0. -/
noncomputable abbrev modGenerator : (ZMod 2)[X] →+* AdjoinRoot crcGenerator := AdjoinRoot.mk crcGenerator

theorem modGenerator_crcPoly : modGenerator (bytePoly crcPoly) = modGenerator (X ^ 8) := by
  rw [AdjoinRoot.mk_eq_mk, bytePoly_crcPoly, CharTwo.sub_eq_add]
  exact dvd_of_eq (by unfold crcGenerator; ring)

theorem modGenerator_crcShift (r : Byte) :
    modGenerator (bytePoly (crcShift r)) = modGenerator (X * bytePoly r) := by
  rw [X_mul_bytePoly, map_add]
  cases h7 : r.getLsbD 7 with
  | true => rw [crcShift_of_set h7, bytePoly_xor, map_add, modGenerator_crcPoly, if_pos rfl]
  | false => rw [crcShift_of_clear h7, if_neg Bool.false_ne_true, map_zero, add_zero]

theorem modGenerator_crcShifts (n : Nat) (r : Byte) :
    modGenerator (bytePoly (crcShifts n r)) = modGenerator (X ^ n * bytePoly r) := by
  induction n generalizing r with
  | zero => simp [crcShifts]
  | succ n ih => rw [crcShifts, ih, map_mul, modGenerator_crcShift, ← map_mul, ← mul_assoc, pow_succ]

/-- Each byte multiplies by `X ^ 8` what came before it, and so does its own step to it. -/
theorem modGenerator_crc8 (bs : List Byte) :
    modGenerator (bytePoly (crc8 bs)) = modGenerator (messagePoly bs * X ^ 8) := by
  induction bs using List.reverseRecOn with
  | nil => simp [messagePoly, bytePoly]
  | append_singleton bs b ih =>
    rw [crc8_append_singleton, crc8Step, modGenerator_crcShifts, bytePoly_xor, mul_comm, map_mul, map_add, ih,
      ← map_add, ← map_mul, messagePoly_append_singleton]

/-- Settles O55: the two agree where the generator is 0, and `crc8` is of lower degree than the generator. -/
theorem crcIsThePolynomialRemainder : Obligations.CrcIsThePolynomialRemainder := by
  intro bs
  show bytePoly (crc8 bs) = (messagePoly bs * X ^ 8) %ₘ crcGenerator
  have hdvd := AdjoinRoot.mk_eq_mk.mp (modGenerator_crc8 bs)
  have hself : bytePoly (crc8 bs) %ₘ crcGenerator = bytePoly (crc8 bs) := by
    rw [modByMonic_eq_self_iff crcGenerator_monic, crcGenerator_degree]
    exact bytePoly_degree_lt _
  rw [← hself, modByMonic_eq_of_dvd_sub crcGenerator_monic hdvd]

end Sys2Proof.Machine
end

section
/-! The standalone CRC port (R85 to R88). -/

namespace Sys2Proof.Machine

/-! ### Decoding the port's words -/

/-- A word under the mask is its selector, and its data bits are the instruction's. -/
theorem decodeCommand_of_and_mask {w : CmdWord} {i : Instr} (hop : w &&& 0x700#11 = i.op ++ 0#8)
    (hdata : i.data = dataField w) (a e : Timestamp) : decodeCommand ⟨w, a, e⟩ = i.withSideBand a e := by
  have hsel : opField w = i.op := by simpa using congrArg opField ((and_mask w).symm.trans hop)
  have hw : w = encodeWord i := by rw [encodeWord, ← hsel, hdata, opField_append_dataField]
  rw [hw, decodeCommand_encodeWord]

theorem dataField_eq_ofNat (w : CmdWord) : dataField w = BitVec.ofNat 8 w.toNat :=
  BitVec.eq_of_toNat_eq (by rw [toNat_dataField, BitVec.toNat_ofNat])

/-! ### Runs of the port -/

theorem PortInput.absorbed_of_crcUpd {p : PortInput Timestamp} {d : Byte} (hr : p.rst = false)
    (hi : p.instr = .crcUpd d) : p.absorbed = some d := by
  simp [PortInput.absorbed, hr, hi]

theorem PortInput.absorbed_eq_none {p : PortInput Timestamp} (hi : ∀ d, p.instr ≠ .crcUpd d) :
    p.absorbed = none := by
  unfold PortInput.absorbed
  split
  · rfl
  · cases h : p.instr with
    | crcUpd d => exact absurd h (hi d)
    | _ => rfl

/-- A step that does not clear the accumulator absorbs the byte that it gives the port, if any (R29). -/
theorem step_acc_of_not_cleared {s t : State} (h : step s = .next t) (hr : s.presented.rst = false)
    (hclr : ∀ d, s.presented.instr ≠ .crcClr d) : t.acc = s.presented.absorbed.toList.foldl crc8Step s.acc := by
  obtain ⟨hcases, -, -⟩ := accWrittenOnlyByTheCrcPort
  obtain ⟨hr', -⟩ | ⟨-, ⟨d, hi⟩, -⟩ | ⟨-, d, hi, hacc⟩ | ⟨-, hother, hacc⟩ := hcases s t h
  · simp [hr] at hr'
  · exact absurd hi (hclr d)
  · rw [hacc, PortInput.absorbed_of_crcUpd hr hi]
    rfl
  · rw [hacc, PortInput.absorbed_eq_none fun d => (hother d).2]
    rfl

theorem iterate_afterStep_acc {ins rest : List (PortInput Timestamp)} {s : State} (hin : s.inputs = ins ++ rest)
    (hins : ∀ p ∈ ins, p.rst = false ∧ ∀ d, p.instr ≠ .crcClr d) :
    (State.afterStep^[ins.length] s).acc = (ins.filterMap PortInput.absorbed).foldl crc8Step s.acc := by
  induction ins generalizing s with
  | nil => rfl
  | cons p ps ih =>
    have hpres : s.presented = p := State.presented_cons hin
    obtain ⟨⟨hr, hclr⟩, hps⟩ := List.forall_mem_cons.mp hins
    have hstep := step_acc_of_not_cleared (step_eq_afterStep s) (hpres ▸ hr) (hpres ▸ hclr)
    rw [List.length_cons, Function.iterate_succ_apply, ih (by simp [State.afterStep, hin]) hps, hstep, hpres]
    cases hp : p.absorbed <;> simp [hp]

/-- Settles O58: the first step clears the accumulator, and the others fold their bytes into it. -/
theorem crcPortComputesCrc : Obligations.CrcPortComputesCrc := by
  refine ⟨fun s d a e w ins rest hdecode hin hins => ?_, rfl⟩
  have hclear : step s = .next (State.perform Block.crcClr { s with inputs := ins ++ rest }) := by
    rw [step_of_cons hin, ← exec_crcClr _ d, ← hdecode]
    rfl
  exact ⟨_, (run_succ_of_step hclear _).trans (run_eq_iterate _ _), iterate_afterStep_acc rfl hins⟩

/-! ### Single commands -/

/-- Settles O16, with the meaning of CRC_CLR on a word under the mask and on any state. -/
theorem crcClrClearsTheAccumulator : Obligations.CrcClrClearsTheAccumulator := by
  refine ⟨fun w hw a e => ⟨dataField w, ?_⟩, fun d s => ?_⟩
  · exact decodeCommand_of_and_mask (i := .crcClr (dataField w)) (by simpa [Instr.op] using hw) rfl a e
  · exact ⟨_, exec_crcClr s d, rfl, rfl, rfl, rfl, rfl, List.append_nil _, by simp, fun d' =>
      ⟨_, exec_crcClr _ d', rfl, rfl, rfl, List.append_nil _⟩⟩

/-- Settles O17: a step on the byte equal to the accumulator gives 0. -/
theorem crcUpdAbsorbsOneByte : Obligations.CrcUpdAbsorbsOneByte := by
  refine ⟨fun w hw a e => ?_, fun d s => ?_, fun s hs => ?_⟩
  · rw [← dataField_eq_ofNat]
    exact decodeCommand_of_and_mask (i := .crcUpd (dataField w)) (by simpa [Instr.op] using hw) rfl a e
  · exact ⟨_, exec_crcUpd s d, rfl, rfl, crc8Step_eq_zero_iff.mpr, rfl, rfl, rfl, List.append_nil _⟩
  · have hexample : crc8Step 0x07#8 0x02#8 = 0x1B#8 := by decide
    exact ⟨_, exec_crcUpd s _, by simp [State.crcOut, hs, hexample]⟩

/-- Settles O22: neither operation reads the window. -/
theorem crcPortLeavesTheSynchronizer : Obligations.CrcPortLeavesTheSynchronizer := by
  rintro i ⟨d, rfl | rfl⟩ s
  · exact ⟨_, exec_crcClr s d, rfl, rfl, List.append_nil _, rfl, fun W => exec_crcClr _ d⟩
  · exact ⟨_, exec_crcUpd s d, rfl, rfl, List.append_nil _, rfl, fun W => exec_crcUpd _ d⟩

end Sys2Proof.Machine
end

section
/-! One PUSH and one NOP (R101 to R106, R110, R116).

The idea: the frame that ends in the new byte is the only one that PUSH tests, and its test decides the window, the
records and `res_valid` alike. -/

namespace Sys2Proof.Machine

/-! ### One PUSH -/

/-- A PUSH that `process` answers without a match. -/
theorem exec_push_of_kept {s : State} {v : Byte} {a e : Timestamp}
    (h : process s.window (timestampedByte v a e) = (s.window ++ [timestampedByte v a e], [])) :
    ∃ t, exec (.push v a e) s = .next t ∧ t.window = s.window ++ [⟨v, a, e⟩] ∧ t.out = [] ∧ t.log = s.log ∧
      t.acc = s.acc ∧ t.refused = s.refused :=
  ⟨_, exec_push s v a e, congrArg Prod.fst h, congrArg Prod.snd h, by simp [h], rfl, rfl⟩

/-- Settles O23: fewer than ten elements are not tested. -/
theorem pushWhileAccumulatingEmitsNothing : Obligations.PushWhileAccumulatingEmitsNothing := fun s v a e hlen =>
  exec_push_of_kept (process_of_short _ (by simpa using hlen))

/-- Settles O24: `process` tests the frame that ends in the new byte, and it fails. -/
theorem pushMismatchKeepsTheWindow : Obligations.PushMismatchKeepsTheWindow := by
  intro s v a e bad f hW hne
  have hfail : ¬ f.passes = true := fun hpass => hne (f.passes_iff.mp hpass)
  exact exec_push_of_kept ((process_of_split hW).trans (if_neg hfail))

/-- Settles O25: `process` tests the frame that ends in the new byte, and it passes. -/
theorem pushMatchEmitsTheFrameAndClears : Obligations.PushMatchEmitsTheFrameAndClears := by
  intro s v a e bad f hW hcrc
  have hmatch : process s.window (timestampedByte v a e) = ([], frameRecords bad f) :=
    (process_of_split hW).trans (if_pos (f.passes_iff.mpr hcrc))
  refine ⟨_, badSpanOf bad, exec_push s v a e, by simp [hmatch], rfl, rfl, rfl, badSpanOf_cases bad, ?_⟩
  rw [State.perform_out, Block.push_records, State.block_window, hmatch]
  exact List.append_assoc ..

/-- `res_valid` of a PUSH is the test of the frame that ends in its byte. -/
theorem push_resValid_of_split {s : State} {b : TimestampedByte Timestamp} {bad : List (TimestampedByte Timestamp)}
    {f : Frame Timestamp} (h : s.window ++ [b] = bad ++ f.toList) :
    (s.perform (Block.push b)).bundle.resValid = f.passes := by
  have hp := process_of_split h
  cases hpass : f.passes with
  | true => exact (bundle_of_frame (bad := bad) (f := f) (by simp [hp, hpass])).1
  | false =>
    rw [bundle_of_no_records (by simp [hp, hpass])]
    rfl

/-- The last nine elements and one more are the frame that the test reads. -/
theorem append_singleton_eq_frame {τ : Type} {W : List (TimestampedByte τ)} {p : Payload τ}
    (h : p.toList = W.drop (W.length - 9)) (b : TimestampedByte τ) :
    W ++ [b] = W.take (W.length - 9) ++ Frame.toList ⟨p, b⟩ := by
  rw [Frame.toList, h, ← List.append_assoc, List.take_append_drop]

/-- Settles O26: the frame that is tested is made of the last nine elements and the new byte. -/
theorem pushTestsOnlyTheLastTen : Obligations.PushTestsOnlyTheLastTen := by
  rintro s v a e W rfl hlen
  have h9 : 9 ≤ s.window.length := by simpa using hlen
  obtain ⟨p, hp⟩ := exists_payload (S := s.window.drop (s.window.length - 9)) (by simp; omega)
  have hW := append_singleton_eq_frame hp (timestampedByte v a e)
  refine ⟨_, exec_push s v a e, ?_, fun s' _ hagree => ⟨_, exec_push s' v a e, ?_⟩⟩
  · have htest := windowMatches_iff_passes (s.window.take (s.window.length - 9)) [] ⟨p, timestampedByte v a e⟩
    have hidx : (s.window.take (s.window.length - 9)).length + 10 = (s.window ++ [timestampedByte v a e]).length := by
      simp
      omega
    rw [List.append_nil, ← hW, hidx] at htest
    rw [push_resValid_of_split hW, htest]
  · have hW' := append_singleton_eq_frame (hp.trans hagree.symm) (timestampedByte v a e)
    rw [push_resValid_of_split hW', push_resValid_of_split hW]

/-- A confirmed frame gives six records, and one more before them for a lead-in (R101, R105). -/
theorem frameRecords_cases {τ : Type} (bad : List (TimestampedByte τ)) (f : Frame τ) :
    (bad = [] ∧ frameRecords bad f = decodePayload f.payload ++ [checksumGood f.crcByte]) ∨
    (bad ≠ [] ∧ ∃ x y, frameRecords bad f = .badSpan x y :: (decodePayload f.payload ++ [checksumGood f.crcByte])) := by
  obtain ⟨rfl, -⟩ | ⟨first, last, hfirst, -, hspan⟩ := badSpanOf_cases bad
  · exact .inl ⟨rfl, rfl⟩
  · refine .inr ⟨List.ne_nil_of_mem (List.mem_of_head? hfirst), first.startTime, last.endTime, ?_⟩
    rw [frameRecords, hspan]
    rfl

theorem length_fieldRecords {τ : Type} (f : Frame τ) :
    (decodePayload f.payload ++ [checksumGood f.crcByte]).length = 6 := rfl

/-- The fields of a frame and its verdict are no BadSpan. -/
theorem badSpan_not_mem_fieldRecords {τ : Type} (f : Frame τ) (x y : τ) :
    DecodedRecord.badSpan x y ∉ decodePayload f.payload ++ [checksumGood f.crcByte] := by
  simp [decodePayload, decodeTemperature, decodeVoltage, decodeCurrent, decodeConsumption, decodeRpm, checksumGood]

/-- Settles O27: no records without a match; with one, the two cases of `frameRecords`. -/
theorem pushEmitsNoneSixOrSeven : Obligations.PushEmitsNoneSixOrSeven := by
  intro s v a e
  refine ⟨_, exec_push s v a e, ?_⟩
  obtain ⟨hkeep, -⟩ | ⟨-, bad, f, hW, hpass⟩ := process_window_cases s.window (timestampedByte v a e)
  · have hout : (s.perform (Block.push (timestampedByte v a e))).out = [] := by simp [hkeep]
    rw [hout]
    simp [bundle_of_no_records hout]
  · have hout : (s.perform (Block.push (timestampedByte v a e))).out = frameRecords bad f := by
      simp [process_of_split hW, hpass]
    rw [push_resValid_of_split hW, hpass, hout, hW]
    obtain ⟨rfl, hrec⟩ | ⟨hbad, x, y, hrec⟩ := frameRecords_cases bad f <;> rw [hrec]
    · exact ⟨.inr (.inl (length_fieldRecords f)), iff_of_false (by rw [length_fieldRecords]; decide) (by simp),
        fun x y h => absurd h (badSpan_not_mem_fieldRecords f x y)⟩
    · refine ⟨.inr (.inr rfl), iff_of_true rfl ⟨rfl, by simpa [List.length_pos_iff] using hbad⟩, fun x' y' h => ?_⟩
      obtain heq | hmem := List.mem_cons.mp h
      · exact ⟨f.payload, f.crcByte, by rw [heq]⟩
      · exact absurd hmem (badSpan_not_mem_fieldRecords f x' y')

/-! ### NOP -/

/-- Settles O15: the state after a NOP holds the same block, and PUSH reads nothing else. -/
theorem nopChangesNothing : Obligations.NopChangesNothing := by
  refine ⟨fun w hw a e => ⟨dataField w, ?_⟩, fun d s => ?_⟩
  · exact decodeCommand_of_and_mask (i := .nop (dataField w)) (by simpa [Instr.op] using hw) rfl a e
  · exact ⟨_, exec_nop s d, rfl, rfl, rfl, rfl, rfl, List.append_nil _, by simp, fun v a e =>
      ⟨_, _, exec_push s v a e, exec_push _ v a e, rfl, rfl, by simp⟩⟩

end Sys2Proof.Machine
end

section
/-! Runs of the synchronizer (R107, R109, R111 to R114, R117, R118).

The idea: as long as no window passes, every pushed byte is kept and nothing is emitted; the push that completes a
passing frame emits its records and empties the window. Each statement about a run cuts the run at those pushes. -/

namespace Sys2Proof.Machine

/-! ### Runs in which no window passes -/

/-- While no reset comes and no window passes, the pushed bytes are kept, and nothing is emitted (R102, R104). -/
theorem run_of_noWindowMatches {s : State} {ins rest : List (PortInput Timestamp)} (hin : s.inputs = ins ++ rest)
    (hrst : ∀ p ∈ ins, p.rst = false) (hno : NoWindowMatches (s.window ++ ins.filterMap PortInput.pushed)) :
    ∃ t, run ins.length s = .next t ∧ t.window = s.window ++ ins.filterMap PortInput.pushed ∧ t.log = s.log ∧
      t.inputs = rest := by
  induction ins generalizing s with
  | nil => exact ⟨s, rfl, by simp, rfl, hin⟩
  | cons p ps ih =>
    obtain ⟨hr, hps⟩ := List.forall_mem_cons.mp hrst
    have hstep := step_eq_afterStep s
    have hpres : s.presented = p := State.presented_cons hin
    have hsplit : s.window ++ (p :: ps).filterMap PortInput.pushed =
        s.window ++ p.pushed.toList ++ ps.filterMap PortInput.pushed := by
      cases hp : p.pushed <;> simp [hp]
    have hnext : s.afterStep.window = s.window ++ p.pushed.toList ∧ s.afterStep.out = [] := by
      rw [hsplit] at hno
      obtain ⟨hr', -⟩ | ⟨-, hp, hw, hout⟩ | ⟨b, -, hp, ht⟩ := step_sync_cases hstep
      · simp [hpres, hr] at hr'
      · rw [hpres] at hp
        simp [hp, hw, hout]
      · rw [hpres] at hp
        have hkeep : process s.window b = (s.window ++ [b], []) :=
          process_of_noWindowMatches (by simpa [hp] using hno.of_append)
        simp [ht, hkeep, hp]
    obtain ⟨hw, hout⟩ := hnext
    rw [hsplit, ← hw] at hno
    obtain ⟨t, hrun, htw, hlog, hrest⟩ := ih (by simp [State.afterStep, hin]) hps hno
    refine ⟨t, by rw [List.length_cons, run_succ_of_step hstep, hrun], ?_, ?_, hrest⟩
    · rw [htw, hw, hsplit]
    · rw [hlog, step_log hstep, hout, List.append_nil]

@[simp] theorem pushed_pushLine (b : TimestampedByte Timestamp) : (pushLine b).portInput.pushed = some b :=
  PortInput.pushed_of_push rfl (decodeCommand_encode _)

@[simp] theorem filterMap_pushed_pushInputs (bs : List (TimestampedByte Timestamp)) :
    (pushInputs bs).filterMap PortInput.pushed = bs := by
  induction bs with
  | nil => rfl
  | cons b bs ih => rw [pushInputs_cons, List.filterMap_cons_some (pushed_pushLine b), ih]

@[simp] theorem pushInputs_append (bs cs : List (TimestampedByte Timestamp)) :
    pushInputs (bs ++ cs) = pushInputs bs ++ pushInputs cs := List.map_append

theorem run_pushInputs_of_noWindowMatches {s : State} {bs : List (TimestampedByte Timestamp)}
    {rest : List (PortInput Timestamp)} (hin : s.inputs = pushInputs bs ++ rest)
    (hno : NoWindowMatches (s.window ++ bs)) :
    ∃ t, run bs.length s = .next t ∧ t.window = s.window ++ bs ∧ t.log = s.log ∧ t.inputs = rest := by
  have hrst : ∀ p ∈ pushInputs bs, p.rst = false := by simp [pushInputs]
  simpa using run_of_noWindowMatches hin hrst (by simpa using hno)

/-- Settles O30: fewer than ten elements hold no window that could pass. -/
theorem fewerThanTenPushesEmitNothing : Obligations.FewerThanTenPushesEmitNothing := by
  intro s ins rest hs hin hrst hlen
  obtain ⟨t, hrun, hw, hlog, -⟩ :=
    run_of_noWindowMatches hin hrst (noWindowMatches_of_length_lt (by simpa [hs] using hlen))
  exact ⟨t, hrun, hlog, by simpa [hs] using hw⟩

/-! ### Past the end of the inputs -/

/-- With nothing left to present, the block stays as it is (R60, R109). -/
theorem run_of_inputs_nil {s : State} (hin : s.inputs = []) (k : Nat) :
    ∃ t, run k s = .next t ∧ t.block = s.block ∧ t.log = s.log := by
  induction k generalizing s with
  | zero => exact ⟨s, rfl, rfl, rfl⟩
  | succ k ih =>
    have hidle : step s = .next (s.perform Block.idle) := step_of_nil hin
    obtain ⟨t, hrun, hblock, hlog⟩ := ih (s := s.perform Block.idle) hin
    exact ⟨t, by rw [run_succ_of_step hidle, hrun], hblock, by simpa using hlog⟩

/-- Settles O35: nine pushes wait for the tenth, and idle steps add nothing. -/
theorem tailOfTheStreamIsDropped : Obligations.TailOfTheStreamIsDropped := by
  intro s p k hs hin
  obtain ⟨u, hrun, hwindow, hlog, hinputs⟩ := run_payload (rest := []) hs (by simpa using hin)
  obtain ⟨t, hidle, hblock, hlog'⟩ := run_of_inputs_nil hinputs k
  exact ⟨t, (run_add_of_run hrun k).trans hidle, hlog'.trans hlog, (congrArg Block.window hblock).trans hwindow⟩

/-- Settles O36: idle steps keep the block, and the reset event emits nothing. -/
theorem streamEndFlushesNothing : Obligations.StreamEndFlushesNothing := by
  intro s k hin
  obtain ⟨t, hrun, hblock, hlog⟩ := run_of_inputs_nil hin k
  exact ⟨t, hrun, congrArg Block.window hblock, hlog, congrArg Block.acc hblock, congrArg Block.refused hblock,
    t.applyReset, rfl, rfl, rfl, by rw [State.applyReset_log, hlog]⟩

/-! ### The push that confirms a frame -/

/-- Bytes that are kept, and the one that completes the first passing frame (R101, R107). -/
theorem run_confirm {s : State} {init bad : List (TimestampedByte Timestamp)} {b : TimestampedByte Timestamp}
    {f : Frame Timestamp} {rest : List (PortInput Timestamp)} (hin : s.inputs = pushInputs (init ++ [b]) ++ rest)
    (hno : NoWindowMatches (s.window ++ init)) (hW : s.window ++ init ++ [b] = bad ++ f.toList)
    (hpass : f.passes = true) :
    (∃ u, run init.length s = .next u ∧ u.window = s.window ++ init ∧ u.log = s.log) ∧
    ∃ t, run (init.length + 1) s = .next t ∧ t.window = [] ∧ t.out = frameRecords bad f ∧ t.log = s.log ++ t.out ∧
      t.inputs = rest := by
  obtain ⟨u, hrun, hwindow, hlog, hinputs⟩ :=
    run_pushInputs_of_noWindowMatches (rest := (pushLine b).portInput :: rest) (by simpa using hin) hno
  have hmatch : process u.window b = ([], frameRecords bad f) := by
    rw [hwindow, process_of_split hW, if_pos hpass]
  exact ⟨⟨u, hrun, hwindow, hlog⟩, _,
    (run_add_of_run hrun 1).trans (run_succ_of_step (step_of_pushLine hinputs) 0),
    by simp [hmatch], by simp [hmatch], by simp [hlog], by simp [hinputs]⟩

/-- A valid frame from the empty window (R112). -/
theorem run_frame {s : State} {f : Frame Timestamp} {rest : List (PortInput Timestamp)} (hs : s.window = [])
    (hin : s.inputs = pushInputs f.toList ++ rest) (hpass : f.passes = true) :
    (∃ u, run 9 s = .next u ∧ u.window = f.payload.toList ∧ u.log = s.log) ∧
    ∃ t, run 10 s = .next t ∧ t.window = [] ∧ t.out = decodePayload f.payload ++ [checksumGood f.crcByte] ∧
      t.log = s.log ++ t.out ∧ t.inputs = rest := by
  have hshort : NoWindowMatches (s.window ++ f.payload.toList) := noWindowMatches_of_length_lt (by simp [hs])
  have hW : s.window ++ f.payload.toList ++ [f.crcByte] = [] ++ f.toList := by rw [hs]; rfl
  obtain ⟨⟨u, hrun, hwindow, hlog⟩, hconfirm⟩ := run_confirm hin hshort hW hpass
  exact ⟨⟨u, hrun, by simpa [hs] using hwindow, hlog⟩, hconfirm⟩

/-- Settles O31: a payload and its CRC are a frame that passes. -/
theorem frameFromEmptyWindowDecodes : Obligations.FrameFromEmptyWindowDecodes := by
  intro s p c rest hs hin hcrc
  obtain ⟨⟨u, hrun, hwindow, hlog⟩, t, hrun', hempty, hout, hlog', -⟩ :=
    run_frame (f := ⟨p, c⟩) hs hin ((Frame.passes_iff _).mpr hcrc.symm)
  exact ⟨⟨u, hrun, hlog, hwindow⟩, t, hrun', hempty, hout, hlog'⟩

/-- Settles O34: of the cases of a step, only a confirmed frame emits, and it empties the window. -/
theorem emissionEmptiesTheWindow : Obligations.EmissionEmptiesTheWindow := by
  intro s t h hout
  have hempty : t.window = [] := by
    obtain ⟨-, -, -, hnone⟩ | ⟨-, -, -, hnone⟩ | ⟨b, -, -, rfl⟩ := step_sync_cases h
    · exact absurd hnone hout
    · exact absurd hnone hout
    · obtain ⟨hkeep, -⟩ | ⟨hclear, -⟩ := process_window_cases s.window b
      · exact absurd (by simp [hkeep]) hout
      · exact hclear
  refine ⟨hempty, fun p c rest hcrc hin => ?_⟩
  obtain ⟨-, u, hrun, hwindow, hrecords, hlog, -⟩ :=
    run_frame (f := ⟨p, c⟩) hempty hin ((Frame.passes_iff _).mpr hcrc.symm)
  exact ⟨u, hrun, hrecords, hlog, hwindow⟩

/-! ### Noise before a frame -/

/-- If no window that ends by the `n`-th element passes, none of the first `n` elements does (R23's index form). -/
theorem noWindowMatches_take {τ : Type} {W : List (TimestampedByte τ)} {n : Nat}
    (h : ∀ j, 10 ≤ j → j ≤ n →
      (W[j - 1]?).map TimestampedByte.value ≠ some (crc8 (vals (slice W (j - 10) (j - 2))))) :
    NoWindowMatches (W.take n) := by
  intro j hj h10
  have hjn : j ≤ n := by
    rw [List.length_take] at hj
    omega
  have hslice : slice (W.take n) (j - 10) (j - 2) = slice W (j - 10) (j - 2) := by
    rw [slice, slice, List.take_take, min_eq_left (by omega)]
  rw [hslice, List.getElem?_take_of_lt (by omega)]
  exact h j h10 hjn

/-- Settles O32: noise and payload are kept, and the frame's last byte confirms it with the noise as lead-in. -/
theorem resynchronizationReportsOneBadSpan : Obligations.ResynchronizationReportsOneBadSpan := by
  intro s N f rest hs hN hcrc hfirst hin
  have happend : N ++ f.toList = N ++ f.payload.toList ++ [f.crcByte] := (List.append_assoc ..).symm
  have hlen : (N ++ f.payload.toList).length = N.length + 9 := by simp
  have hno : NoWindowMatches (s.window ++ (N ++ f.payload.toList)) := by
    have htake : (N ++ f.toList).take (N.length + 9) = N ++ f.payload.toList := by rw [happend, List.take_left' hlen]
    rw [hs, List.nil_append, ← htake]
    exact noWindowMatches_take hfirst
  obtain ⟨⟨u, hrun, -, hlog⟩, t, hrun', hempty, hout, hlog', -⟩ :=
    run_confirm (by rw [hin, happend]) hno (by rw [hs, happend]; rfl) (f.passes_iff.mpr hcrc)
  rw [hlen] at hrun hrun'
  obtain ⟨rfl, -⟩ | ⟨first, last, hhead, hlast, hspan⟩ := badSpanOf_cases N
  · exact absurd rfl hN
  · refine ⟨⟨u, hrun, hlog⟩, t, first, last, hrun', hhead, hlast, ?_, hlog', hempty⟩
    rw [hout, frameRecords, hspan]
    rfl

/-- Settles O33: the first passing window is confirmed, and fewer than ten bytes are left to push after it. -/
theorem spuriousMatchLosesTheFrame : Obligations.SpuriousMatchLosesTheFrame := by
  intro s N bad f g j rest hs hNj hjN hsplit hcrc hfirst hin
  have hlen : (N ++ f.toList).length = N.length + 10 := by simp
  have hj : (bad ++ g.payload.toList).length + 1 = j := by
    have := congrArg List.length hsplit
    simp at this ⊢
    omega
  have hsplit' : (N ++ f.toList).take j = bad ++ g.payload.toList ++ [g.crcByte] :=
    hsplit.trans (List.append_assoc ..).symm
  have hno : NoWindowMatches (s.window ++ (bad ++ g.payload.toList)) := by
    have htake : (N ++ f.toList).take (j - 1) = bad ++ g.payload.toList := by
      rw [← min_eq_left (Nat.sub_le j 1), ← List.take_take, hsplit', List.take_left' (by omega)]
    rw [hs, List.nil_append, ← htake]
    exact noWindowMatches_take fun i h10 hi => hfirst i h10 (by omega)
  have hin' : s.inputs =
      pushInputs (bad ++ g.payload.toList ++ [g.crcByte]) ++ (pushInputs ((N ++ f.toList).drop j) ++ rest) := by
    rw [hin, ← List.append_assoc, ← pushInputs_append, ← hsplit', List.take_append_drop]
  obtain ⟨-, u, hrun, hempty, hout, hlog, hinputs⟩ :=
    run_confirm hin' hno (by rw [hs, List.nil_append, List.append_assoc]; rfl) (g.passes_iff.mpr hcrc)
  obtain ⟨t, hrun', hwindow, hlog', -⟩ := run_pushInputs_of_noWindowMatches hinputs
    (noWindowMatches_of_length_lt (by rw [hempty, List.nil_append, List.length_drop]; omega))
  refine ⟨t, ?_, by rw [hlog', hlog, hout], by rw [hwindow, hempty, List.nil_append]⟩
  rw [hj] at hrun
  rw [← hrun', ← run_add_of_run hrun, List.length_drop, hlen]
  congr 1
  omega

end Sys2Proof.Machine
end

section
/-! Runs of zeros (R119), and what a run depends on (R115). -/

namespace Sys2Proof.Machine

/-! ### Zeros -/

/-- Ten zero bytes pass (R119). -/
theorem Frame.passes_of_zeros {τ : Type} {f : Frame τ} (h : ∀ b ∈ f.toList, b.value = 0x00#8) : f.passes = true := by
  have hpayload : vals f.payload.toList = List.replicate 9 0x00#8 :=
    List.eq_replicate_iff.mpr ⟨by simp, by simpa [vals] using fun b hb => h b (by simp [Frame.toList, hb])⟩
  rw [Frame.passes_iff, hpayload, crc8_replicate_zero, h f.crcByte (by simp [Frame.toList])]

/-- The records of an all-zero frame without lead-in. -/
def zeroFrameRecords {τ : Type} (f : Frame τ) : List (DecodedRecord τ) :=
  [.temperature 0x00#8 f.payload.p0.startTime f.payload.p0.endTime,
   .voltage 0#32 f.payload.p1.startTime f.payload.p2.endTime,
   .current 0#32 f.payload.p3.startTime f.payload.p4.endTime,
   .consumption 0#32 f.payload.p5.startTime f.payload.p6.endTime,
   .rpm 0#32 f.payload.p7.startTime f.payload.p8.endTime,
   .checksumResult .good f.crcByte.startTime f.crcByte.endTime]

theorem fieldRecords_of_zeros {τ : Type} {f : Frame τ} (h : ∀ b ∈ f.toList, b.value = 0x00#8) :
    decodePayload f.payload ++ [checksumGood f.crcByte] = zeroFrameRecords f := by
  simp only [Frame.toList, Payload.toList, List.cons_append, List.nil_append, List.forall_mem_cons] at h
  obtain ⟨h0, h1, h2, h3, h4, h5, h6, h7, h8, -⟩ := h
  simp [decodePayload, decodeTemperature, decodeVoltage, decodeCurrent, decodeConsumption, decodeRpm, scaledField,
    checksumGood, zeroFrameRecords, h0, h1, h2, h3, h4, h5, h6, h7, h8]

/-- From the empty window, each ten zeros confirm one frame without lead-in. -/
theorem run_zeroFrames {s : State} {fs : List (Frame Timestamp)} {rest : List (PortInput Timestamp)}
    (hs : s.window = []) (hzero : ∀ f ∈ fs, ∀ b ∈ f.toList, b.value = 0x00#8)
    (hin : s.inputs = pushInputs (fs.flatMap Frame.toList) ++ rest) :
    ∃ t, run (10 * fs.length) s = .next t ∧ t.window = [] ∧ t.log = s.log ++ fs.flatMap zeroFrameRecords := by
  induction fs generalizing s with
  | nil => exact ⟨s, rfl, hs, by simp⟩
  | cons f fs ih =>
    obtain ⟨hf, hfs⟩ := List.forall_mem_cons.mp hzero
    obtain ⟨-, u, hrun, hempty, hout, hlog, hinputs⟩ :=
      run_frame (rest := pushInputs (fs.flatMap Frame.toList) ++ rest) hs (by simpa using hin)
        (Frame.passes_of_zeros hf)
    obtain ⟨t, hrun', hempty', hlog'⟩ := ih hempty hfs hinputs
    refine ⟨t, ?_, hempty', ?_⟩
    · rw [List.length_cons, Nat.mul_succ, Nat.add_comm, run_add_of_run hrun, hrun']
    · rw [hlog', hlog, hout, fieldRecords_of_zeros hf, List.flatMap_cons, List.append_assoc]

/-- If the last ten elements of the window and the bytes to push are zeros, some of the pushes emits: the last one does
unless one before it did. -/
theorem exists_run_emitting {s : State} {bs : List (TimestampedByte Timestamp)} {rest : List (PortInput Timestamp)}
    (hbs : bs ≠ []) {bad : List (TimestampedByte Timestamp)} {f : Frame Timestamp}
    (hW : s.window ++ bs = bad ++ f.toList) (hpass : f.passes = true) (hin : s.inputs = pushInputs bs ++ rest) :
    ∃ m t, 1 ≤ m ∧ m ≤ bs.length ∧ run m s = .next t ∧ t.out ≠ [] := by
  induction bs generalizing s with
  | nil => exact absurd rfl hbs
  | cons b bs ih =>
    have hstep : step s = .next (s.taken.perform (Block.push b)) := step_of_pushLine hin
    obtain ⟨hkeep, hfail⟩ | ⟨-, bad', f', hW', hpass'⟩ := process_window_cases s.window b
    · have hne : bs ≠ [] := by
        rintro rfl
        simp [hfail bad f hW] at hpass
      obtain ⟨m, t, -, hm, hrun, hout⟩ := ih (s := s.taken.perform (Block.push b)) hne (by simpa [hkeep] using hW)
        (by simp [hin])
      exact ⟨m + 1, t, by omega, by simpa using hm, by rw [run_succ_of_step hstep, hrun], hout⟩
    · refine ⟨1, _, le_rfl, by simp, run_succ_of_step hstep 0, ?_⟩
      simp [process_of_split hW', hpass', frameRecords]

/-- Settles O37: ten zeros pass, so each clause is about a run that meets passing frames. -/
theorem zeroRunsConfirmFrames : Obligations.ZeroRunsConfirmFrames := by
  refine ⟨fun τ f hf => f.passes_iff.mp (Frame.passes_of_zeros hf), fun s fs rest => run_zeroFrames, ?_⟩
  intro s bs rest hbs _ hlen hzero hin
  obtain ⟨bad, f, hW⟩ := exists_split hlen
  have hlast : (s.window ++ bs).drop ((s.window ++ bs).length - 10) = f.toList := by
    rw [hW, List.drop_left' (by simp)]
  rw [hlast] at hzero
  exact exists_run_emitting hbs hW (Frame.passes_of_zeros hzero) hin

/-! ### What a run depends on -/

/-- The block and the coming port values decide what a step adds to the log, and the block after it. -/
theorem iterate_afterStep_of_block_eq {s s' : State} (hblock : s.block = s'.block) (hin : s.inputs = s'.inputs)
    (k : Nat) :
    (State.afterStep^[k] s).block = (State.afterStep^[k] s').block ∧
      ∃ added, (State.afterStep^[k] s).log = s.log ++ added ∧ (State.afterStep^[k] s').log = s'.log ++ added := by
  induction k generalizing s s' with
  | zero => exact ⟨hblock, [], by simp⟩
  | succ k ih =>
    have hpres : s.presented = s'.presented := congrArg (List.headD · idleInput) hin
    obtain ⟨hend, added, hlog, hlog'⟩ := ih (s := s.afterStep) (s' := s'.afterStep)
      (by simp [State.afterStep, hpres, hblock]) (by simp [State.afterStep, hin])
    refine ⟨hend, (s.block.onPort s.presented).2 ++ added, ?_, ?_⟩
    · rw [Function.iterate_succ_apply, hlog, step_log (step_eq_afterStep s), List.append_assoc]
      rfl
    · rw [Function.iterate_succ_apply, hlog', step_log (step_eq_afterStep s'), List.append_assoc, hpres, hblock]
      rfl

/-- Settles O44: the block is what the two states share, and `win_len` and `crc_out` are read off it. -/
theorem runsAreAFunctionOfStateAndCommands : Obligations.RunsAreAFunctionOfStateAndCommands := by
  intro s s' k hwindow hacc hrefused hin
  have hblock : s.block = s'.block := by simp [State.block, hwindow, hacc, hrefused]
  obtain ⟨hend, added, hlog, hlog'⟩ := iterate_afterStep_of_block_eq hblock hin k
  have hwin := congrArg Block.window hend
  have hcrc := congrArg Block.acc hend
  simp only [State.block_window, State.block_acc] at hwin hcrc
  have hlen : (State.afterStep^[k] s).winLen = (State.afterStep^[k] s').winLen := by
    simp [State.winLen, State.winLenAt, hwin]
  exact ⟨_, _, added, run_eq_iterate k s, run_eq_iterate k s', hlog, hlog', hwin, hcrc, congrArg Block.refused hend,
    hlen, fun h => by simp [State.observe, State.crcOut, hlog, hlog', h, hcrc, hlen]⟩

end Sys2Proof.Machine
end

section
/-! The frame decoder (R131 to R136). -/

namespace Sys2Proof.Machine

/-- Settles O51: the five field decoders and `scaledField`, with `scale` as 10, written out (R132 to R136). -/
theorem decodeListsTheFiveFields : Obligations.DecodeListsTheFiveFields := by
  intro τ p
  simp only [decodePayload, decodeTemperature, decodeVoltage, decodeCurrent, decodeConsumption, decodeRpm, scaledField,
    scale]

end Sys2Proof.Machine
end

section
/-! Exceptions and the refusal mark (R150 to R163), timestamps as copies (R158), and blocks side by side (R160).

The ideas: whatever is presented, a step is the function `State.afterStep`, and its effect on the mark is one `||`. A
block all of whose timestamps meet `P` is a block at the type `{x // P x}`, where a step has no other timestamps to
give. -/

namespace Sys2Proof.Machine

/-! ### Completion -/

/-- Settles O11: a command performs its block operation, a step is `State.afterStep`, and a run iterates it. -/
theorem everyCommandAndStepCompletes : Obligations.EveryCommandAndStepCompletes :=
  ⟨fun i s => ⟨_, exec_eq_perform i s, rfl, rfl⟩, fun s => ⟨_, step_eq_afterStep s, rfl, rfl⟩,
    fun k s => ⟨_, run_eq_iterate k s, s.iterate_afterStep_inputs k⟩⟩

/-! ### The refusal mark -/

theorem isReserved_iff_op_mem (i : Instr) : i.isReserved = true ↔ i.op ∈ [0b010#3, 0b011#3, 0b110#3, 0b111#3] := by
  cases i <;> simp [Instr.isReserved, Instr.op]

theorem exec_of_isReserved {i : Instr} (h : i.isReserved = true) (s : State) :
    exec i s = .next (s.perform Block.refuse) := by
  cases i with
  | reserved010 d => exact exec_reserved010 s d
  | reserved011 d => exact exec_reserved011 s d
  | reserved110 d => exact exec_reserved110 s d
  | reserved111 d => exact exec_reserved111 s d
  | nop _ | push _ _ _ | crcClr _ | crcUpd _ => cases h

/-- A step on `p` performs a reserved command. -/
def PortInput.refuses (p : PortInput Timestamp) : Bool := !p.rst && p.instr.isReserved

theorem PortInput.refuses_of_rst {p : PortInput Timestamp} (h : p.rst = true) : p.refuses = false := by
  simp [PortInput.refuses, h]

theorem PortInput.refuses_of_no_rst {p : PortInput Timestamp} (h : p.rst = false) :
    p.refuses = p.instr.isReserved := by
  simp [PortInput.refuses, h]

theorem PortInput.refuses_eq_false {p : PortInput Timestamp} :
    p.refuses = false ↔ p.rst = true ∨ p.instr.isReserved = false := by
  cases hr : p.rst with
  | true => simp [PortInput.refuses_of_rst hr]
  | false => simp [PortInput.refuses_of_no_rst hr]

/-- A step raises the mark where it performs a reserved command, and never lowers it (R152, R170). -/
theorem step_refused {s t : State} (h : step s = .next t) : t.refused = (s.refused || s.presented.refuses) := by
  obtain ⟨hr, rfl⟩ | ⟨hr, hexec⟩ := step_cases h
  · simp [PortInput.refuses_of_rst hr]
  rw [PortInput.refuses_of_no_rst hr]
  obtain ⟨⟨d, hi⟩, rfl⟩ | ⟨v, a, e, hi, rfl⟩ | ⟨⟨d, hi⟩, rfl⟩ | ⟨d, hi, rfl⟩ | ⟨hi, rfl⟩ := exec_cases hexec
  · simp [hi, Instr.isReserved]
  · simp [hi, Instr.isReserved]
  · simp [hi, Instr.isReserved]
  · simp [hi, Instr.isReserved]
  · simp [hi]

/-- The mark after `k` steps: past the end of the list each step is a NOP, which leaves it alone. -/
theorem iterate_afterStep_refused (k : Nat) (s : State) :
    (State.afterStep^[k] s).refused = (s.refused || (s.inputs.take k).any PortInput.refuses) := by
  induction k generalizing s with
  | zero => simp
  | succ k ih =>
    rw [Function.iterate_succ_apply, ih, step_refused (step_eq_afterStep s), Bool.or_assoc]
    cases hin : s.inputs with
    | nil =>
      have hidle : s.presented.refuses = false := by rw [State.presented_nil hin]; rfl
      simp [State.afterStep, hin, hidle]
    | cons p ps => simp [State.afterStep, hin, State.presented_cons hin]

theorem safeRun_iff (k : Nat) (s : State) : SafeRun k s ↔ (State.afterStep^[k] s).refused = false := by
  simp [SafeRun, run_eq_iterate]

/-- Settles O18: the four selectors, the one operation they perform, and a mark that no step lowers. -/
theorem reservedCommandsSetTheMark : Obligations.ReservedCommandsSetTheMark := by
  refine ⟨fun c => ?_, fun d i hi s => ?_, fun s t hs h => ?_, fun s hs hgood => ?_⟩
  · rw [opField_word_eq_op, isReserved_iff_op_mem]
  · have hres : i.isReserved = true := by
      simp only [List.mem_cons, List.not_mem_nil, or_false] at hi
      obtain rfl | rfl | rfl | rfl := hi <;> rfl
    exact ⟨_, exec_of_isReserved hres s, rfl, rfl, rfl, rfl, List.append_nil _⟩
  · rw [step_refused h, hs, Bool.true_or]
  · exact Bool.false_ne_true (hgood.symm.trans hs)

/-- Settles O19: `step_refused` with `PortInput.refuses` written out. -/
theorem markRisesOnlyOnReservedCommands : Obligations.MarkRisesOnlyOnReservedCommands := fun _ _ => step_refused

/-- Settles O20: the mark at the end is the `||` of all steps, so it is down where each of them leaves it down. -/
theorem goodEndMeansNoReservedCommand : Obligations.GoodEndMeansNoReservedCommand := by
  intro k s
  simp only [safeRun_iff, iterate_afterStep_refused, Bool.or_eq_false_iff, List.any_eq_false, Bool.not_eq_true,
    PortInput.refuses_eq_false]

/-! ### No timestamp is created -/

section
variable {τ : Type} {P : τ → Prop}

theorem exists_mapTime_val_eq_byte {b : TimestampedByte τ} (h : P b.startTime ∧ P b.endTime) :
    ∃ b' : TimestampedByte {x // P x}, b'.mapTime Subtype.val = b := by
  obtain ⟨hstart, hend⟩ := h
  exact ⟨⟨b.value, ⟨b.startTime, hstart⟩, ⟨b.endTime, hend⟩⟩, rfl⟩

/-- A block whose timestamps all meet `P` comes from a block at the type of those timestamps. -/
theorem exists_mapTime_val_eq_block {B : Block τ} (h : ∀ b ∈ B.window, P b.startTime ∧ P b.endTime) :
    ∃ B' : Block {x // P x}, B'.mapTime Subtype.val = B := by
  have hW : B.window ∈ Set.range (List.map (TimestampedByte.mapTime (Subtype.val : {x // P x} → τ))) := by
    rw [Set.range_list_map]
    exact fun b hb => exists_mapTime_val_eq_byte (h b hb)
  obtain ⟨W, hW⟩ := hW
  exact ⟨⟨W, B.acc, B.refused⟩, by rw [Block.mapTime, hW]⟩

theorem exists_mapTime_val_eq_portInput {p : PortInput τ}
    (h : ∀ c, p.command = some c → P c.tsStart ∧ P c.tsEnd) :
    ∃ p' : PortInput {x // P x}, p'.mapTime Subtype.val = p := by
  match p with
  | ⟨r, none⟩ => exact ⟨⟨r, none⟩, rfl⟩
  | ⟨r, some c⟩ =>
    obtain ⟨hstart, hend⟩ := h c rfl
    exact ⟨⟨r, some ⟨c.word, ⟨c.tsStart, hstart⟩, ⟨c.tsEnd, hend⟩⟩⟩, rfl⟩

theorem DecodedRecord.span_mapTime {σ : Type} (g : τ → σ) (r : DecodedRecord τ) :
    (r.mapTime g).span = (g r.span.1, g r.span.2) := by
  cases r <;> rfl

/-- A step on port values, seen at the type `{x // P x}` (R8): all that it answers has timestamps of that type. -/
theorem Block.onPort_times {B : Block τ} {p : PortInput τ} (hB : ∀ b ∈ B.window, P b.startTime ∧ P b.endTime)
    (hp : ∀ c, p.command = some c → P c.tsStart ∧ P c.tsEnd) :
    (∀ b ∈ (B.onPort p).1.window, P b.startTime ∧ P b.endTime) ∧
      ∀ r ∈ (B.onPort p).2, P r.span.1 ∧ P r.span.2 := by
  obtain ⟨B', rfl⟩ := exists_mapTime_val_eq_block hB
  obtain ⟨p', rfl⟩ := exists_mapTime_val_eq_portInput hp
  rw [Block.onPort_mapTime]
  constructor
  · refine List.forall_mem_map.mpr fun b _ => ?_
    exact ⟨b.startTime.property, b.endTime.property⟩
  · refine List.forall_mem_map.mpr fun r _ => ?_
    rw [DecodedRecord.span_mapTime]
    exact ⟨r.span.1.property, r.span.2.property⟩
end

/-- What is presented comes from the list, or is idle and has no timestamps. -/
theorem State.presented_mem_or_idle (s : State) : s.presented ∈ s.inputs ∨ s.presented = idleInput := by
  cases hin : s.inputs with
  | nil => exact .inr (State.presented_nil hin)
  | cons p ps => exact .inl (by simp [State.presented_cons hin])

/-- Settles O46: window and records by `Block.onPort_times`, the inputs left and the log so far as they were. -/
theorem noTimestampIsCreated : Obligations.NoTimestampIsCreated := by
  rintro P s t ⟨hwindow, hinputs, -, hlog⟩ h
  rw [step_eq_perform] at h
  cases h
  have hpresented : ∀ c, s.presented.command = some c → P c.tsStart ∧ P c.tsEnd := by
    obtain hmem | hidle := s.presented_mem_or_idle
    · exact hinputs _ hmem
    · simp [hidle, idleInput]
  obtain ⟨hwindow', hout⟩ := Block.onPort_times (B := s.block) hwindow hpresented
  refine ⟨hwindow', fun p hp => hinputs p (List.mem_of_mem_tail hp), hout, fun r hr => ?_⟩
  exact (List.mem_append.mp hr).elim (hlog r) (hout r)

/-! ### Blocks side by side -/

theorem stepLink_eq_modify (k : Nat) (links : List State) :
    stepLink k links = .next (links.modify k State.afterStep) := by
  rw [stepLink, List.modify_eq_set_getElem?]
  cases links[k]? with
  | none => rfl
  | some s => simp [step_eq_afterStep]

/-- Settles O47: stepping a block modifies its place in the list, and modifications of different places commute. -/
theorem linksAreIndependent : Obligations.LinksAreIndependent := by
  constructor
  · intro k j ls ms h hkj
    rw [stepLink_eq_modify] at h
    cases h
    exact List.getElem?_modify_ne _ _ hkj
  · intro k j ls hkj
    refine ⟨_, _, _, stepLink_eq_modify k ls, stepLink_eq_modify j ls, stepLink_eq_modify j _, ?_⟩
    rw [stepLink_eq_modify, List.modify_modify_ne _ _ _ hkj]

end Sys2Proof.Machine
end

section
/-! The reset event as a step (R170, R178). -/

namespace Sys2Proof.Machine

/-- A step with `rst` is the reset event, whatever command is beside it. -/
theorem step_of_rst {s : State} {c : Option (Command Timestamp)} {rest : List (PortInput Timestamp)}
    (h : s.inputs = ⟨true, c⟩ :: rest) : step s = .next { s with inputs := rest }.applyReset := by
  rw [step_of_cons h]
  rfl

/-- Settles O13: the step is the reset event, whose values are the laws of `State.applyReset`. -/
theorem resetStepIsSystemStart : Obligations.ResetStepIsSystemStart := by
  refine ⟨⟨rfl, rfl, winLen_of_empty rfl⟩, fun s c rest hin => ?_⟩
  exact ⟨_, step_of_rst hin, rfl, rfl, winLen_of_empty rfl, rfl, rfl, State.applyReset_log _⟩

/-- Settles O14: with and without the command, the step is the reset event on the same state. -/
theorem resetDiscardsTheCommand : Obligations.ResetDiscardsTheCommand := by
  rintro s _ c rest hin rfl
  have hnone : step { s with inputs := ⟨true, none⟩ :: rest } = .next { s with inputs := rest }.applyReset :=
    step_of_rst rfl
  exact ⟨(step_of_rst hin).trans hnone.symm, _, step_of_rst hin, rfl, rfl, rfl, rfl⟩

end Sys2Proof.Machine
end
